-- ==== Sys2Proof/Word.lean ====
section
/-! DEFINITION. The machine's words (00_scope.md section 5.1): all fields are unsigned bit vectors,
bit 31 of a frame the most significant. -/

namespace Sys2Proof

/-- One byte of a frame on the transport. -/
abbrev Byte := BitVec 8

/-- The 16-bit payload of a frame (R61). -/
abbrev Half := BitVec 16

/-- One frame or command word, 32 bits (R60). -/
abbrev Word := BitVec 32

end Sys2Proof
end

