-- ==== Sys2Proof/Machine/Crc8.lean ====
section
/-! DEFINITION. The CRC-8 engine (40_crc8.md): the bit-serial algorithm of R91 to R94, and the derived forms
of R97, R98 and R102, which statements compare with it. -/

namespace Sys2Proof.Machine

/-! ### The algorithm -/

/-- One step of the accumulator for one input bit, in the order of R93. -/
def crcStep (acc : Byte) (bit : Bool) : Byte :=
  let top := acc &&& 0x80
  let top := if bit then top ^^^ 0x80 else top
  let acc := acc <<< 1
  if top ≠ 0 then acc ^^^ 0x1D else acc

/-- The 24 most significant bits of a word, bit 31 first, bit 8 last (R92). -/
def messageBits (w : Word) : List Bool := (List.range 24).map fun j => w.getLsbD (31 - j)

/-- `ACC` after the 24 steps, started from 0xFF (R91, R93). -/
def crcAcc (w : Word) : Byte := (messageBits w).foldl crcStep 0xFF

/-- `crc8` (R90 to R95): the accumulator complemented (R94). -/
def crc8 (w : Word) : Byte := crcAcc w ^^^ 0xFF

/-! ### Derived forms -/

/-- One bit of the usual byte-wise engine: shift out the top bit, feed the polynomial back if it was set. -/
def crcShift (acc : Byte) : Byte := if acc.msb then acc <<< 1 ^^^ 0x1D else acc <<< 1

/-- One byte of the usual byte-wise engine (R97): XOR the byte in, shift eight times. -/
def crcByte (acc b : Byte) : Byte := (List.range 8).foldl (fun a _ => crcShift a) (acc ^^^ b)

/-- The standard CRC of R97 over a list of bytes: polynomial 0x1D, start 0xFF, no reflection, final XOR 0xFF. -/
def crcOfBytes (bs : List Byte) : Byte := bs.foldl crcByte 0xFF ^^^ 0xFF

/-- The table `S[b]` of R98, for b from 8 to 31. -/
def crcContribution : Nat → Byte
  | 31 => 0xC0 | 30 => 0x60 | 29 => 0x30 | 28 => 0x18 | 27 => 0x0C | 26 => 0x06
  | 25 => 0x03 | 24 => 0x8F | 23 => 0xC9 | 22 => 0xEA | 21 => 0x75 | 20 => 0xB4
  | 19 => 0x5A | 18 => 0x2D | 17 => 0x98 | 16 => 0x4C | 15 => 0x26 | 14 => 0x13
  | 13 => 0x87 | 12 => 0xCD | 11 => 0xE8 | 10 => 0x74 | 9 => 0x3A | 8 => 0x1D
  | _ => 0

/-- The XOR of `S[b]` over the bits b of 31 to 8 that are 1 (R98, R99). -/
def crcXorNetwork (w : Word) : Byte :=
  (List.range 24).foldl (fun a j => if w.getLsbD (j + 8) then a ^^^ crcContribution (j + 8) else a) 0

/-- Long division over the field of two elements by x^8 + x^4 + x^3 + x^2 + 1 (R102): clear bits 31 down to 8
of a polynomial of degree below 32 by adding shifted copies of the divisor 0x11D. -/
def polyReduce (p : Word) : Word :=
  (List.range 24).foldl (fun r j => if r.getLsbD (31 - j) then r ^^^ ((0x11D : Word) <<< (23 - j)) else r) p

/-- The remainder of R102. -/
def polyRem (p : Word) : Byte := (polyReduce p).extractLsb' 0 8

/-- `(0xFF * x^16 + M) * x^8`, M the 24-bit message: the start value 0xFF lies over the message's top byte.
R102 prints x^24 for x^16, which disagrees with R91 to R94 and with every vector of 95_test_vectors.md; the
model follows those (log 26). -/
def crcDividend (w : Word) : Word := (w &&& 0xFFFFFF00) ^^^ 0xFF000000

end Sys2Proof.Machine
end

