-- ==== Sys2Proof/Syntax.lean ====
section
/-! DEFINITION. The instructions: the rows of spec/opcode_table.json, one constructor each (R66, R138).
No command takes an operand: everything it carries is fixed in its word (R71). -/

namespace Sys2Proof

/-- The seven commands of R66 and the flush of R138. -/
inductive Instr where
  /-- SET_MODE, R131. -/
  | setMode
  /-- SET_ANGLE_MODE, R132. -/
  | setAngleMode
  /-- READ_STATUS, R133. -/
  | readStatus
  /-- READ_ID, R134. -/
  | readId
  /-- READ_ANGLE_X, R135. -/
  | readAngleX
  /-- READ_ANGLE_Y, R136. -/
  | readAngleY
  /-- READ_ANGLE_Z, R137. -/
  | readAngleZ
  /-- FLUSH, R138: appended by the sequencer, never an element of a command list. -/
  | flush
  deriving DecidableEq, Repr, Inhabited

/-- How the host names a command: a 3-bit selector, of which 7 is reserved (R68). -/
abbrev Selector := BitVec 3

end Sys2Proof
end

