-- ==== Sys2Proof/Config.lean ====
section
/-! DEFINITION. What is fixed for one machine (the parameters of R6) and the values the spec leaves free.
An `opaque` constant has no body: nothing can evaluate it, so whatever is proved holds for every value of it. -/

namespace Sys2Proof

/-- `CMDTAB` (R66): the word of each of the seven commands, by selector. A parameter, constrained by R67. -/
structure CmdTab where
  setMode : Word
  setAngleMode : Word
  readStatus : Word
  readId : Word
  readAngleX : Word
  readAngleY : Word
  readAngleZ : Word
  deriving DecidableEq, Repr

/-- The six arguments of `TConfigure` (R45), of which the spec gives no value. -/
structure BusParams where
  bitRate : Nat
  polarity : Nat
  bitOrder : Nat
  frameTiming : Nat
  electricalLevel : Nat
  chipSelectPolarity : Nat
  deriving DecidableEq, Repr, Inhabited

/-- The parameters of R6 that a rule depends on. -/
structure Config where
  /-- `CMDTAB`, R66. -/
  cmdTab : CmdTab
  /-- `N_MAX`, the longest command list. -/
  nMax : Nat
  /-- `POLL_LIMIT`: none, or the number of failed polls that ends the wait (R156). -/
  pollLimit : Option Nat
  /-- `FAULT_ON_STEADY_STATUS` (R221). -/
  faultOnSteadyStatus : Bool
  /-- The arguments the host gives `TConfigure` (R45). -/
  bus : BusParams
  deriving DecidableEq, Repr

/-- OPEN (R6, D10): how far `N_MAX` exceeds 5, its least value. DESIGN CHOICE (log 9), safe. -/
opaque Config.nMaxAboveFive : Nat

/-- OPEN (R6, R156, D7): `none`, or one less than the poll limit, which is at least 1.
DESIGN CHOICE (log 10), safe. -/
opaque Config.pollLimitLessOne : Option Nat

/-- OPEN (R45): the six bus parameters. DESIGN CHOICE (log 19), safe. -/
opaque Config.openBus : BusParams

/-- Free value (R54, U2): the answer to `TAvail` once the scripted answers are used up, by draw number. -/
opaque Config.freeAvail : Nat → Nat

/-- Free value (R54, U1): a byte that arrives once the scripted bytes are used up, by draw number. -/
opaque Config.freeByte : Nat → Byte

/-- Free value (R227): whether `TConfigure` succeeds once the scripted answers are used up, by draw number. -/
opaque Config.freeConfigure : Nat → Bool

/-- Free value (R23, U4): what entry i of `SEQ.cmds` holds before it is written, as a selector 0 to 6. -/
opaque Config.freeCmd : Nat → Fin 7

/-- Free value (R23, U4): what entry i of `RES.req` holds before it is written, as a selector 0 to 6. -/
opaque Config.freeReq : Nat → Fin 7

/-- Free value (R23, U4): what byte j of `SEQ.rx` holds before it is written. -/
opaque Config.freeRxByte : Nat → Byte

/-- Free value (R23, U4): the word whose frame entry i of `RES.frame` holds before it is written. -/
opaque Config.freeFrameWord : Nat → Word

end Sys2Proof
end

