-- ==== Sys2Proof/Decode.lean ====
section
/-! DEFINITION. From bits to commands and back: byte order (R53, R115), the command words (R66), selectors
(R68), the decoder, and AFTER it the encoder (R116). Reserved encodings are rejected by name. -/

namespace Sys2Proof

/-! ### Bytes and words -/

/-- `word_of_bytes` (R115): the first byte on the transport is bits 31 to 24. -/
def wordOfBytes (b0 b1 b2 b3 : Byte) : Word := b0 ++ b1 ++ b2 ++ b3

/-- `bytes_of_word` (R115), most significant byte first (R53). -/
def bytesOfWord (w : Word) : List Byte :=
  [w.extractLsb' 24 8, w.extractLsb' 16 8, w.extractLsb' 8 8, w.extractLsb' 0 8]

/-! ### The command table -/

/-- The default words of R66. PRESUMED: the spec marks every one of them "from general knowledge, not in
source" (log 1); unsafe if a word is wrong. -/
def defaultTable : CmdTab where
  setMode := 0xB400001F
  setAngleMode := 0xB0001F6F
  readStatus := 0x180000E5
  readId := 0x40000091
  readAngleX := 0x240000C7
  readAngleY := 0x280000CD
  readAngleZ := 0x2C0000CB

/-- `CMDTAB[c]` (R66). The flush is the word of `READ_ID` (R138). -/
def cmdWord (T : CmdTab) : Instr → Word
  | .setMode => T.setMode
  | .setAngleMode => T.setAngleMode
  | .readStatus => T.readStatus
  | .readId => T.readId
  | .readAngleX => T.readAngleX
  | .readAngleY => T.readAngleY
  | .readAngleZ => T.readAngleZ
  | .flush => T.readId

/-- The seven commands, in selector order (R66). The flush has no selector (R138). -/
def commands : List Instr :=
  [.setMode, .setAngleMode, .readStatus, .readId, .readAngleX, .readAngleY, .readAngleZ]

/-! ### Selectors -/

/-- The command a selector names; the value 7 is reserved (R66, R68). -/
def commandOfSelector (x : Selector) : Option Instr := commands[x.toNat]?

/-- The commands a list of selectors names, or nothing if one of them is reserved (R151, R164). -/
def commandsOfSelectors : List Selector → Option (List Instr)
  | [] => some []
  | x :: xs =>
    match commandOfSelector x, commandsOfSelectors xs with
    | some c, some cs => some (c :: cs)
    | _, _ => none

/-- The command of a number 0 to 6: what an unwritten selector register can hold (U4). -/
def commandOfFin (x : Fin 7) : Instr := commands.getD x.val .setMode

/-- The selector a host writes for a command (R66). The flush has none (R138): it is given the reserved
value, so a list that holds it is refused. -/
def selectorOf : Instr → Selector
  | .setMode => 0
  | .setAngleMode => 1
  | .readStatus => 2
  | .readId => 3
  | .readAngleX => 4
  | .readAngleY => 5
  | .readAngleZ => 6
  | .flush => 7

/-! ### The decoder -/

/-- Why bytes are no instruction. -/
inductive DecodeError where
  /-- Fewer than the four bytes every word has (R60). -/
  | tooShort
  /-- Four bytes that are none of the seven command words (R68). -/
  | notACommand
  deriving DecidableEq, Repr

/-- The command a word encodes: of the 2^32 words all but seven are no command (R68). The word of `READ_ID`
and the flush decodes to `READ_ID` (log 2). -/
def decodeWord (T : CmdTab) (w : Word) : Option Instr :=
  commands.find? fun i => cmdWord T i == w

/-- Decode the first four bytes, giving the rest back. Total: every list of bytes gives a command or a
reason. -/
def decodeBytes (T : CmdTab) : List Byte → Except DecodeError (Instr × List Byte)
  | b0 :: b1 :: b2 :: b3 :: rest =>
    match decodeWord T (wordOfBytes b0 b1 b2 b3) with
    | some i => .ok (i, rest)
    | none => .error .notACommand
  | _ => .error .tooShort

/-! ### The encoder -/

/-- `encode(c)` (R116): a table lookup, four bytes, nothing computed. -/
def encode (T : CmdTab) (i : Instr) : List Byte := bytesOfWord (cmdWord T i)

/-! ### The host's view of the opcode table -/

/-- The instruction the decoder reads from a table word: one word of 32 bits (R60), laid out most
significant byte first (R53). -/
def decodeTableWord (nbits w : Nat) : Option Instr :=
  if nbits ≤ 32 ∧ w < 2 ^ 32 then
    match decodeBytes defaultTable (bytesOfWord (BitVec.ofNat 32 w)) with
    | .ok (i, _) => some i
    | .error _ => none
  else none

end Sys2Proof
end

