-- ==== Sys2Proof/Machine/State.lean ====
section
/-! DEFINITION. The state of the block (10_state.md R10 to R17), of the host (R18) and of the boundary (R24,
R54), as plain data, its reset values (R23), and the reasons a step can stop. -/

namespace Sys2Proof.Machine

/-! ### Value types -/

/-- A Frame (R12): the five fields of a 32-bit word and the flag computed from them. -/
structure Frame where
  rd : BitVec 1
  addr : BitVec 5
  rs : BitVec 2
  data : Half
  crc : Byte
  crcError : Bool
  deriving DecidableEq, Repr

/-- The tag of a response (R121). -/
inductive Verdict where
  | valid
  | crcError
  | addressMismatch
  deriving DecidableEq, Repr

/-- The ten conditions of the status word, bit 0 first (R191 to R200). -/
inductive Condition where
  /-- Bit 0, "internal connection error" (R191). -/
  | internalConnectionError
  /-- Bit 1, "operation mode changed" (R192). -/
  | operationModeChanged
  /-- Bit 2, "power-down mode active" (R193). -/
  | powerDownModeActive
  /-- Bit 3, "non-volatile memory error" (R194). -/
  | nonVolatileMemoryError
  /-- Bit 4, "voltage level failure" (R195). -/
  | voltageLevelFailure
  /-- Bit 5, "temperature signal path saturated" (R196). -/
  | temperatureSignalPathSaturated
  /-- Bit 6, "signal path saturated" (R197). -/
  | signalPathSaturated
  /-- Bit 7, "clock error" (R198). -/
  | clockError
  /-- Bit 8, "digital block error type 2" (R199). -/
  | digitalBlockErrorType2
  /-- Bit 9, "digital block error type 1" (R200). -/
  | digitalBlockErrorType1
  deriving DecidableEq, Repr

/-- What the status decoder returns (R190). -/
structure StatusReport where
  conditions : List Condition
  usable : Bool
  deriving DecidableEq, Repr

/-- The six errors of the source's taxonomy, E1 to E6 (R247). -/
inductive ErrorKind where
  /-- E1, R241. -/
  | frameIntegrityError
  /-- E2, R242. -/
  | addressMismatchError
  /-- E3, R243. -/
  | communicationTimeout
  /-- E4, R244. -/
  | chipNotReady
  /-- E5, R245. -/
  | identityMismatch
  /-- E6, R246. -/
  | faultCondition
  deriving DecidableEq, Repr

/-! ### The sequencer and its result -/

/-- The states of the sequencer (R15). -/
inductive SeqPhase where
  | idle
  | reset
  | send
  | flush
  | wait
  | read
  | check
  | done
  deriving DecidableEq, Repr

/-- `SEQ` (R15, R16). Entries of `cmds` and bytes of `rx` that are not listed were never written: they read
as free values (log 11). -/
structure Sequencer where
  state : SeqPhase
  n : Nat
  cmds : List Instr
  k : Nat
  polls : Nat
  rx : List Byte
  deriving DecidableEq, Repr

/-- `RES` (R17). Entries of `frame` and `req` that are not listed were never written (log 11). -/
structure TransactionResult where
  valid : Bool
  ok : Bool
  timeout : Bool
  n : Nat
  frame : List Frame
  req : List Instr
  deriving DecidableEq, Repr

/-! ### The host -/

/-- `SESSION.state` (R18, R211). -/
inductive SessionState where
  | uninitialized
  | poweringUp
  | configuringMode
  | awaitingReady
  | ready
  | faulted
  deriving DecidableEq, Repr

/-- The operations of the session controller (45_host_session.md). -/
inductive HostOp where
  | setup
  | refreshState
  | checkChipsetID
  deriving DecidableEq, Repr

/-- Where the running host operation stands. The model's own (log 16). -/
inductive HostPhase where
  /-- No operation runs. -/
  | idle
  /-- setup, before `TConfigure` (R212). -/
  | configure
  /-- setup, before the bare write of SET_MODE (R213). -/
  | setMode
  /-- setup, before its transaction (R214). -/
  | startSetup
  /-- setup, its transaction started (R215). -/
  | awaitSetup
  /-- refreshState, its transaction started (R218). -/
  | awaitRefresh
  /-- CheckChipsetID, its transaction started (R222). -/
  | awaitIdentity
  deriving DecidableEq, Repr

/-- The cause of a failed setup (R216). -/
inductive Cause where
  | communicationError
  | readinessTimeout
  | identityMismatch
  | faultBitsSet
  deriving DecidableEq, Repr

/-- What a host operation returned (R240). The model's own record (log 17). -/
inductive HostResult where
  /-- setup returned true (R215). -/
  | setupOk
  /-- setup returned false with a cause (R216). -/
  | setupFailed (c : Cause)
  /-- refreshState outside Ready did nothing (R225). -/
  | refreshIgnored
  /-- refreshState, transaction failed, angles kept (R220). -/
  | refreshFailed
  /-- refreshState updated the angles and reports the status (R218, R221), with the cause "fault bits set" if
  FAULT_ON_STEADY_STATUS = true sent the session to Faulted (R221). -/
  | refreshed (report : StatusReport) (cause : Option Cause)
  /-- CheckChipsetID returned a pass or fail (R222). -/
  | identity (pass : Bool)
  deriving DecidableEq, Repr

/-- The host: its state (R18) and the model's own record of the operation it runs (log 16). -/
structure Session where
  state : SessionState
  angleX : Rat
  angleY : Rat
  angleZ : Rat
  phase : HostPhase
  pending : List HostOp
  result : Option HostResult
  deriving DecidableEq, Repr

/-! ### The boundary -/

/-- One call of a transport primitive (R41 to R45), with what the environment answered. -/
inductive Call where
  | configure (bus : BusParams) (ok : Bool)
  | reset
  | write (bytes : List Byte)
  | avail (count : Nat)
  | read (bytes : List Byte)
  deriving DecidableEq, Repr

/-- The transport as the block sees it (R40, R41, R44). -/
structure Port where
  /-- The calls made so far, oldest first. The model's own history (log 14). -/
  calls : List Call
  /-- Bytes received and not yet read, oldest first (R24, R44). -/
  received : List Byte
  deriving DecidableEq, Repr

/-- The environment's answers still to come (R54, log 6). Once a list is used up, free values are drawn. -/
structure Environment where
  /-- The next answers to `TAvail`. -/
  avail : List Nat
  /-- The next bytes to arrive. -/
  incoming : List Byte
  /-- The next answers to `TConfigure`. -/
  configure : List Bool
  /-- How many free values were drawn. The model's own (log 8). -/
  draws : Nat
  deriving DecidableEq, Repr

/-- What reaches the machine from outside before a step (log 15). -/
inductive Input where
  /-- Nothing. -/
  | quiet
  /-- The host, between two of its operations, presents a command list of its own (R151, R210, log 28). -/
  | start (L : List Selector)
  /-- The session controller is asked for an operation. -/
  | request (op : HostOp)
  /-- The reset input of the block (R270). -/
  | reset
  /-- The host resets its session (R271). -/
  | sessionReset
  deriving DecidableEq, Repr

/-! ### The whole state -/

/-- The state of the machine. -/
structure State where
  /-- `ACC` (R11). -/
  acc : Byte
  /-- `CHIP_READY` (R14). -/
  chipReady : Bool
  /-- `SEQ` (R15, R16). -/
  seq : Sequencer
  /-- `RES` (R17). -/
  res : TransactionResult
  /-- The host (R18). -/
  session : Session
  /-- The transport (R24). -/
  port : Port
  /-- The environment's answers (R54). -/
  env : Environment
  /-- The inputs of the coming steps, one per step (log 15). -/
  inputs : List Input
  deriving DecidableEq, Repr

/-! ### One update per field -/

def State.setAcc (s : State) (v : Byte) : State := { s with acc := v }
def State.setChipReady (s : State) (v : Bool) : State := { s with chipReady := v }
def State.setSeq (s : State) (v : Sequencer) : State := { s with seq := v }
def State.setRes (s : State) (v : TransactionResult) : State := { s with res := v }
def State.setSession (s : State) (v : Session) : State := { s with session := v }
def State.setPort (s : State) (v : Port) : State := { s with port := v }
def State.setEnv (s : State) (v : Environment) : State := { s with env := v }
def State.setInputs (s : State) (v : List Input) : State := { s with inputs := v }

/-! ### Reset -/

/-- `SEQ` after reset (R23): cmds and rx unspecified, so no entry is written (log 11). -/
def Sequencer.reset : Sequencer := { state := .idle, n := 0, cmds := [], k := 0, polls := 0, rx := [] }

/-- `RES` after reset (R23): frame and req unspecified, so no entry is written (log 11). -/
def TransactionResult.reset : TransactionResult :=
  { valid := false, ok := false, timeout := false, n := 0, frame := [], req := [] }

/-- The host at power-on (R23): Uninitialized. The angles are unspecified: DESIGN CHOICE 0 (log 13). -/
def Session.reset : Session :=
  { state := .uninitialized, angleX := 0, angleY := 0, angleZ := 0, phase := .idle, pending := [], result := none }

/-- The machine right after power-on (R23, R270). `ACC` is unspecified: DESIGN CHOICE 0 (log 12). -/
def State.reset : State where
  acc := 0
  chipReady := false
  seq := Sequencer.reset
  res := TransactionResult.reset
  session := Session.reset
  port := { calls := [], received := [] }
  env := { avail := [], incoming := [], configure := [], draws := 0 }
  inputs := []

/-! ### Stops -/

/-- Why the machine has no further step. -/
inductive Fault where
  /-- Raised by the READ row of the sequencer when the transport holds fewer bytes than `TRead` asks for: the
  call blocks inside the transport (R44, R284; 93_implementation_defined.md S2, "stuck"). Safe: it is reached
  from no state in which WAIT found the bytes available (R170). -/
  | readWouldBlock
  deriving DecidableEq, Repr

/-- Why an instruction has no meaning. -/
inductive Refusal where
  /-- Raised by an arm of `exec` for an instruction not yet modelled: no arm does. Safe. -/
  | notModelled (mnemonic : String)
  deriving DecidableEq, Repr

end Sys2Proof.Machine
end

