-- ==== Sys2Proof/Machine/Operands.lean ====
section
/-! DEFINITION. Operand forms: the fields of a frame (R61, R63, R111), the address of a request (R120), and the
indexed state elements of R21 (`SEQ.cmds[i]`, `SEQ.rx[j]`, `RES.frame[i]`, `RES.req[i]`). -/

namespace Sys2Proof.Machine

/-! ### Fields of a word (R111) -/

def rdField (w : Word) : BitVec 1 := w.extractLsb' 31 1
def addrField (w : Word) : BitVec 5 := w.extractLsb' 26 5
def rsField (w : Word) : BitVec 2 := w.extractLsb' 24 2
def dataField (w : Word) : Half := w.extractLsb' 8 16
def crcField (w : Word) : Byte := w.extractLsb' 0 8

/-- `w = rd ++ addr ++ rs ++ data ++ crc` (R63). -/
def assemble (rd : BitVec 1) (addr : BitVec 5) (rs : BitVec 2) (data : Half) (crc : Byte) : Word :=
  rd ++ addr ++ rs ++ data ++ crc

/-- `request_addr(c)` (R120): bits 30 to 26 of the command word. -/
def requestAddr (T : CmdTab) (c : Instr) : BitVec 5 := addrField (cmdWord T c)

/-- The low byte of a payload: the identification byte (R134, R223). -/
def lowByte (d : Half) : Byte := d.extractLsb' 0 8

/-! ### Indexed state elements (R21) -/

/-- Read entry i: what was written there, or the entry's free value (U4, log 11). -/
def readEntry {α : Type} (free : Nat → α) (l : List α) (i : Nat) : α := l.getD i (free i)

/-- Write entry i. Entries below it that were never written keep their free values. -/
def writeEntry {α : Type} (free : Nat → α) (l : List α) (i : Nat) (v : α) : List α :=
  if i < l.length then l.set i v
  else l ++ (List.range' l.length (i - l.length)).map free ++ [v]

/-- `SEQ.cmds[i]` (R15). -/
def cmdAt (q : Sequencer) (i : Nat) : Instr := readEntry (fun j => commandOfFin (Config.freeCmd j)) q.cmds i

/-- `RES.req[i]` (R17). -/
def reqAt (r : TransactionResult) (i : Nat) : Instr := readEntry (fun j => commandOfFin (Config.freeReq j)) r.req i

/-- `SEQ.rx[j]` (R16). -/
def rxAt (q : Sequencer) (j : Nat) : Byte := readEntry Config.freeRxByte q.rx j

/-- The number of bytes a transaction of n commands reads, and the threshold of its wait: n response frames
and the artifact frame before them (R155, R157). -/
def frameBytes (n : Nat) : Nat := 4 * (n + 1)

/-- The word of response frame i: received bytes 4(i+1) to 4(i+1)+3 (R157, R166). -/
def responseWord (q : Sequencer) (i : Nat) : Word :=
  wordOfBytes (rxAt q (4 * (i + 1))) (rxAt q (4 * (i + 1) + 1)) (rxAt q (4 * (i + 1) + 2)) (rxAt q (4 * (i + 1) + 3))

/-! ### Angles -/

/-- `degrees(d) = d * 90 / 16384`, exact, never read as signed (R219, R228). -/
def degrees (d : Half) : Rat := ((d.toNat * 90 : Nat) : Rat) / 16384

end Sys2Proof.Machine
end

