-- ==== Sys2Proof/Machine/Flags.lean ====
section
/-! DEFINITION. Every flag the spec computes: `crc_error` (R112), the frame's tag (R121), the readiness test
(R159), the ten status conditions and the usable verdict (44_status_decoder.md), the identity test (R223), and
the error each finding is (R247). -/

namespace Sys2Proof.Machine

/-- `crc_error` of a word (R112). -/
def crcErrorOf (w : Word) : Bool := crc8 w != crcField w

/-- `verdict(f, c)` (R121): the checksum first, then the address. -/
def verdict (T : CmdTab) (f : Frame) (c : Instr) : Verdict :=
  if f.crcError then .crcError
  else if f.addr ≠ requestAddr T c then .addressMismatch
  else .valid

/-- The readiness test (R159): only the value 1 means ready. -/
def rsReady (f : Frame) : Bool := f.rs == 1

/-! ### The status decoder -/

/-- The ten conditions, bit 0 first. -/
def allConditions : List Condition :=
  [.internalConnectionError, .operationModeChanged, .powerDownModeActive, .nonVolatileMemoryError,
   .voltageLevelFailure, .temperatureSignalPathSaturated, .signalPathSaturated, .clockError,
   .digitalBlockErrorType2, .digitalBlockErrorType1]

/-- The bit of the status word that reports a condition (R191 to R200). -/
def conditionBit : Condition → Nat
  | .internalConnectionError => 0
  | .operationModeChanged => 1
  | .powerDownModeActive => 2
  | .nonVolatileMemoryError => 3
  | .voltageLevelFailure => 4
  | .temperatureSignalPathSaturated => 5
  | .signalPathSaturated => 6
  | .clockError => 7
  | .digitalBlockErrorType2 => 8
  | .digitalBlockErrorType1 => 9

/-- Whether a condition forces a reboot (R191 to R200). -/
def forcesReboot : Condition → Bool
  | .internalConnectionError => false
  | .operationModeChanged => true
  | .powerDownModeActive => true
  | .nonVolatileMemoryError => true
  | .voltageLevelFailure => true
  | .temperatureSignalPathSaturated => false
  | .signalPathSaturated => false
  | .clockError => true
  | .digitalBlockErrorType2 => true
  | .digitalBlockErrorType1 => true

/-- `REBOOT_MASK` (R206). -/
def rebootMask : Half := 0x039E

/-- The conditions as a vector, `d[9:0]` (R201). -/
def conditionVector (d : Half) : BitVec 10 := d.extractLsb' 0 10

/-- `status_decode(d)` (R190, R201, R202). Bits 15 to 10 enter neither part (R204). -/
def statusDecode (d : Half) : StatusReport where
  conditions := allConditions.filter fun c => d.getLsbD (conditionBit c)
  usable := d &&& rebootMask == 0

/-- `reboot = not usable` (R203). -/
def needsReboot (d : Half) : Bool := !(statusDecode d).usable

/-! ### Identity -/

/-- `CHIP_ID` (R223). -/
def chipId : Byte := 0xC1

/-- The identity test: the low byte of the payload is `CHIP_ID`, the high byte is not examined (R223). -/
def identityMatches (f : Frame) : Bool := lowByte f.data == chipId

/-! ### Errors as values -/

/-- The error a frame's tag stands for: E1 or E2 (R241, R242). -/
def verdictError : Verdict → Option ErrorKind
  | .valid => none
  | .crcError => some .frameIntegrityError
  | .addressMismatch => some .addressMismatchError

/-- The errors a failed setup's cause can stand for (R247). -/
def causeErrors : Cause → List ErrorKind
  | .communicationError => [.frameIntegrityError, .addressMismatchError, .communicationTimeout]
  | .readinessTimeout => [.chipNotReady]
  | .identityMismatch => [.identityMismatch]
  | .faultBitsSet => [.faultCondition]

end Sys2Proof.Machine
end

