-- ==== Sys2Proof/Machine/Codec.lean ====
section
/-! DEFINITION. The frame codec (41_frame_codec.md): `decode` and `encode_fields`. The lookup `encode` is in
Decode.lean. The codec holds no state and writes none (R122). -/

namespace Sys2Proof.Machine

/-- `decode(w)` (R110 to R113): total, every field as received, the flag computed afresh. -/
def decodeFrame (w : Word) : Frame where
  rd := rdField w
  addr := addrField w
  rs := rsField w
  data := dataField w
  crc := crcField w
  crcError := crcErrorOf w

/-- The 32 bits a frame was taken from: its first five fields lose nothing (R12). -/
def frameWord (f : Frame) : Word := assemble f.rd f.addr f.rs f.data f.crc

/-- `encode_fields(rd, addr, rs, data)` (R117), in the spec's shift-and-or form. -/
def encodeFields (rd : BitVec 1) (addr : BitVec 5) (rs : BitVec 2) (data : Half) : Word :=
  let u : Word := (rd.setWidth 32 <<< 31) ||| (addr.setWidth 32 <<< 26) ||| (rs.setWidth 32 <<< 24)
    ||| (data.setWidth 32 <<< 8)
  u ||| (crc8 u).setWidth 32

/-- What entry i of `RES.frame` holds before it is written: the frame of a free word (U4, log 11). -/
def freeFrame (i : Nat) : Frame := decodeFrame (Config.freeFrameWord i)

/-- `RES.frame[i]` (R17). -/
def frameAt (r : TransactionResult) (i : Nat) : Frame := readEntry freeFrame r.frame i

end Sys2Proof.Machine
end

