-- ==== Sys2Proof/WellFormed.lean ====
section
/-! DEFINITION. What the spec asks of a command list and of a configuration, as Bool checks. -/

namespace Sys2Proof

/-- An instruction that may stand in a command list: any but the flush, which is "never an element of a
command list" (R138). -/
def Instr.listable : Instr → Bool
  | .flush => false
  | _ => true

/-- A command list a start accepts: not longer than `N_MAX` (R151), no flush in it (R138). -/
def listWellFormed (nMax : Nat) (L : List Instr) : Bool :=
  decide (L.length ≤ nMax) && L.all Instr.listable

/-- A list of selectors a start accepts: not longer than `N_MAX`, none of them the reserved 7 (R151, R164). -/
def selectorsWellFormed (nMax : Nat) (L : List Selector) : Bool :=
  decide (L.length ≤ nMax) && L.all fun x => x != 7

/-- Every word of the table carries its own checksum (R67). -/
def CmdTab.checksummed (T : CmdTab) : Bool :=
  commands.all fun i => Machine.crc8 (cmdWord T i) == (cmdWord T i).extractLsb' 0 8

/-- A configuration of the block: R67 for the table, `N_MAX` at least 5, a poll limit of at least 1 (R6, R156). -/
def Config.wellFormed (C : Config) : Bool :=
  C.cmdTab.checksummed && decide (5 ≤ C.nMax) && C.pollLimit != some 0

end Sys2Proof
end

