-- ==== Sys2Proof/Machine/Ops.lean ====
section
/-! DEFINITION. The named operations the rows of the machine are made of: the five transport primitives
(20_memory.md), the start (R151), the reset (R270), and what errors write (R250). The block takes no exception
(R240): errors are values, and the operations under "Errors" are what stands in place of a trap entry; there is
nothing to return from (R251). -/

namespace Sys2Proof.Machine

/-- The configuration of this machine (R6): the default command table (log 1), the open `N_MAX` (at least 5,
log 9) and `POLL_LIMIT` (none or at least 1, log 10), the baseline `FAULT_ON_STEADY_STATUS = false` (log 20). -/
def machineConfig : Config where
  cmdTab := defaultTable
  nMax := Config.nMaxAboveFive + 5
  pollLimit := Config.pollLimitLessOne.map (· + 1)
  faultOnSteadyStatus := false
  bus := Config.openBus

/-! ### The environment's answers (R54) -/

/-- The next answer to `TAvail`: scripted, or free. -/
def nextAvail (e : Environment) : Nat × Environment :=
  match e.avail with
  | a :: rest => (a, { e with avail := rest })
  | [] => (Config.freeAvail e.draws, { e with draws := e.draws + 1 })

/-- The next byte to arrive: scripted, or free. -/
def nextByte (e : Environment) : Byte × Environment :=
  match e.incoming with
  | b :: rest => (b, { e with incoming := rest })
  | [] => (Config.freeByte e.draws, { e with draws := e.draws + 1 })

/-- The next answer to `TConfigure`: scripted, or free. -/
def nextConfigure (e : Environment) : Bool × Environment :=
  match e.configure with
  | b :: rest => (b, { e with configure := rest })
  | [] => (Config.freeConfigure e.draws, { e with draws := e.draws + 1 })

/-- The next m bytes to arrive, in order. -/
def arrive : Nat → Environment → List Byte × Environment
  | 0, e => ([], e)
  | m + 1, e =>
    let b := nextByte e
    let bs := arrive m b.2
    (b.1 :: bs.1, bs.2)

/-! ### The transport primitives -/

/-- A call is made. -/
def record (c : Call) (s : State) : State := s.setPort { s.port with calls := s.port.calls ++ [c] }

/-- `TReset()` (R41): the incoming buffer holds nothing received before it. -/
def tReset (s : State) : State :=
  s.setPort { calls := s.port.calls ++ [.reset], received := [] }

/-- `TWrite(b)` (R42). -/
def tWrite (b : List Byte) (s : State) : State := record (.write b) s

/-- `TAvail()` (R43, R54): any natural number. When it answers a, at least a bytes have arrived (log 7). -/
def tAvail (s : State) : Nat × State :=
  let a := nextAvail s.env
  let bs := arrive (a.1 - s.port.received.length) a.2
  (a.1, (s.setPort { calls := s.port.calls ++ [.avail a.1], received := s.port.received ++ bs.1 }).setEnv bs.2)

/-- `TRead(n)` (R44): the n oldest unread bytes, removed from the buffer. Nothing if fewer are there: the call
blocks (S2). -/
def tRead (n : Nat) (s : State) : Option (List Byte × State) :=
  if n ≤ s.port.received.length then
    some (s.port.received.take n,
      s.setPort { calls := s.port.calls ++ [.read (s.port.received.take n)], received := s.port.received.drop n })
  else none

/-- `TConfigure(...)` (R45, R212): succeeds or fails as the environment answers. -/
def tConfigure (bus : BusParams) (s : State) : Bool × State :=
  let a := nextConfigure s.env
  (a.1, (record (.configure bus a.1) s).setEnv a.2)

/-! ### The start (R151, R164) -/

/-- The sequencer is busy: neither IDLE nor DONE (10_state.md, summary table). -/
def busy (s : State) : Bool := s.seq.state != .idle && s.seq.state != .done

/-- The writes of an accepted start (R151). `SEQ.cmds[i] <- L[i]` for every i; later entries stay. -/
def captureStart (L : List Instr) (s : State) : State :=
  (s.setSeq { s.seq with state := .reset, n := L.length, cmds := L ++ s.seq.cmds.drop L.length, k := 0, polls := 0 }).setRes
    { s.res with valid := false }

/-- A start is presented: accepted with its writes, or refused (R151, R164). -/
def presentStart (C : Config) (L : List Selector) (s : State) : Option State :=
  if busy s || !decide (L.length ≤ C.nMax) then none
  else (commandsOfSelectors L).map fun cs => captureStart cs s

/-! ### Errors: what an error writes (R250) -/

/-- A transaction-level error found in a frame (R158, R250): `RES.ok <- false`, nothing else. -/
def failTransaction (r : TransactionResult) : TransactionResult := { r with ok := false }

/-- The timeout (R156, R250): no frame, not ok, DONE. -/
def timeOutTransaction (s : State) : State :=
  (s.setRes { s.res with valid := true, ok := false, timeout := true, n := 0 }).setSeq { s.seq with state := .done }

/-- A session-level error of setup (R216, R250): `SESSION.state <- Faulted`, with its cause. -/
def faultSession (c : Cause) (s : State) : State :=
  s.setSession { s.session with state := .faulted, phase := .idle, result := some (.setupFailed c) }

/-! ### Resets -/

/-- The reset input of the block (R270): the block's state takes the values of R23. The transport, the
sensor and the host are not reset (R271). -/
def blockReset (s : State) : State :=
  (((s.setAcc State.reset.acc).setChipReady State.reset.chipReady).setSeq Sequencer.reset).setRes TransactionResult.reset

/-- The host resets its session to Uninitialized (R271), dropping what it was doing (log 22). The angles are
written by refreshState alone (R18). -/
def sessionReset (s : State) : State :=
  s.setSession { s.session with state := .uninitialized, phase := .idle, pending := [], result := none }

end Sys2Proof.Machine
end

