-- ==== Sys2Proof/Machine/Commands.lean ====
section
/-! DEFINITION. The meaning of each instruction (42_commands.md). What a command does is the same for all
seven (R130): in SEND its word is transmitted, in CHECK its response is decoded, judged and CHIP_READY
overwritten. -/

namespace Sys2Proof.Machine

/-! ### The shared operations -/

/-- The SEND row (R153): transmit the word of command c unmodified, go on to the next command or the flush. -/
def transmit (T : CmdTab) (c : Instr) (s : State) : State :=
  let s := tWrite (encode T c) s
  s.setSeq { s.seq with k := s.seq.k + 1, state := if s.seq.k + 1 = s.seq.n then .flush else .send }

/-- The CHECK row (R158, R159): response frame k is decoded, stored with the command it is paired with,
judged, and CHIP_READY overwritten from it whatever the judgement. -/
def checkResponse (T : CmdTab) (c : Instr) (s : State) : State :=
  let i := s.seq.k
  let w := responseWord s.seq i
  let f := decodeFrame w
  let r : TransactionResult :=
    { s.res with
      frame := writeEntry freeFrame s.res.frame i f
      req := writeEntry (fun j => commandOfFin (Config.freeReq j)) s.res.req i c
      n := i + 1 }
  let r := if verdict T f c = .valid then r else failTransaction r
  (((s.setRes r).setChipReady (rsReady f)).setAcc (crcAcc w)).setSeq { s.seq with k := i + 1 }

/-- What a command does, whatever its selector (R130): nothing but as element k of the command list of the
transaction in progress. DEDUCED from R130 where it has no effect (log 5). -/
def execCommand (T : CmdTab) (c : Instr) (s : State) : Host.Outcome State Fault Refusal :=
  match s.seq.state with
  | .send => if s.seq.k < s.seq.n then .next (transmit T c s) else .next s
  | .check => if s.seq.k < s.seq.n then .next (checkResponse T c s) else .next s
  | .idle | .reset | .flush | .wait | .read | .done => .next s

/-- The FLUSH row (R154): in state FLUSH the word of READ_ID is transmitted, the poll count cleared, and the
wait begins. Elsewhere the flush has no effect: it is transmitted "by the sequencer once per transaction after
the last command of the list" (R138). DEDUCED where it has no effect (log 5). -/
def flushRow (T : CmdTab) (s : State) : Host.Outcome State Fault Refusal :=
  match s.seq.state with
  | .flush =>
    let s := tWrite (encode T .flush) s
    .next (s.setSeq { s.seq with polls := 0, state := .wait })
  | .idle | .reset | .send | .wait | .read | .check | .done => .next s

/-! ### One meaning per instruction -/

/-- SET_MODE (R131). -/
def execSetMode (s : State) : Host.Outcome State Fault Refusal := execCommand machineConfig.cmdTab .setMode s

/-- SET_ANGLE_MODE (R132). -/
def execSetAngleMode (s : State) : Host.Outcome State Fault Refusal :=
  execCommand machineConfig.cmdTab .setAngleMode s

/-- READ_STATUS (R133). -/
def execReadStatus (s : State) : Host.Outcome State Fault Refusal := execCommand machineConfig.cmdTab .readStatus s

/-- READ_ID (R134). -/
def execReadId (s : State) : Host.Outcome State Fault Refusal := execCommand machineConfig.cmdTab .readId s

/-- READ_ANGLE_X (R135). -/
def execReadAngleX (s : State) : Host.Outcome State Fault Refusal := execCommand machineConfig.cmdTab .readAngleX s

/-- READ_ANGLE_Y (R136). -/
def execReadAngleY (s : State) : Host.Outcome State Fault Refusal := execCommand machineConfig.cmdTab .readAngleY s

/-- READ_ANGLE_Z (R137). -/
def execReadAngleZ (s : State) : Host.Outcome State Fault Refusal := execCommand machineConfig.cmdTab .readAngleZ s

/-- FLUSH (R138). -/
def execFlush (s : State) : Host.Outcome State Fault Refusal := flushRow machineConfig.cmdTab s

end Sys2Proof.Machine
end

