-- ==== Sys2Proof/Machine/Dispatch.lean ====
section
/-! DEFINITION. One arm per instruction. -/

namespace Sys2Proof.Machine

def exec (i : Instr) (s : State) : Host.Outcome State Fault Refusal :=
  match i with
  | .setMode => Sys2Proof.Machine.execSetMode s
  | .setAngleMode => Sys2Proof.Machine.execSetAngleMode s
  | .readStatus => Sys2Proof.Machine.execReadStatus s
  | .readId => Sys2Proof.Machine.execReadId s
  | .readAngleX => Sys2Proof.Machine.execReadAngleX s
  | .readAngleY => Sys2Proof.Machine.execReadAngleY s
  | .readAngleZ => Sys2Proof.Machine.execReadAngleZ s
  | .flush => Sys2Proof.Machine.execFlush s

end Sys2Proof.Machine
end

