-- ==== Sys2Proof/Machine/Sequencer.lean ====
section
/-! DEFINITION. The rows of the sequencer's table (R165) that run no command, and the fetch: which instruction
the next step runs. `SEQ.state` with `SEQ.k` takes the place of a program counter (R15). -/

namespace Sys2Proof.Machine

/-- The instruction the next step runs: in SEND and CHECK the command `SEQ.cmds[SEQ.k]` (R153, R158), in FLUSH
the flush (R154). In every other state the step runs no command. -/
def fetch (s : State) : Option Instr :=
  match s.seq.state with
  | .send => if s.seq.k < s.seq.n then some (cmdAt s.seq s.seq.k) else none
  | .check => if s.seq.k < s.seq.n then some (cmdAt s.seq s.seq.k) else none
  | .flush => some .flush
  | .idle | .reset | .wait | .read | .done => none

/-- The RESET row (R152). -/
def resetRow (s : State) : State :=
  let s := tReset s
  s.setSeq { s.seq with state := if 0 < s.seq.n then .send else .flush }

/-- A failed poll with the limit reached (R156), for a count of failed polls. -/
def limitReached (limit : Option Nat) (polls : Nat) : Bool :=
  match limit with
  | none => false
  | some p => decide (p ≤ polls)

/-- The WAIT rows (R155, R156): one `TAvail`, compared with the threshold. -/
def waitRow (limit : Option Nat) (s : State) : State :=
  let a := tAvail s
  let s := a.2
  if frameBytes s.seq.n ≤ a.1 then s.setSeq { s.seq with state := .read }
  else
    let s := s.setSeq { s.seq with polls := s.seq.polls + 1 }
    if limitReached limit s.seq.polls then timeOutTransaction s else s

/-- The READ row (R157): one `TRead` of the whole transaction's bytes. -/
def readRow (s : State) : Host.Outcome State Fault Refusal :=
  match tRead (frameBytes s.seq.n) s with
  | none => .fault .readWouldBlock
  | some (bs, s) =>
    .next ((s.setSeq { s.seq with rx := bs, k := 0, state := .check }).setRes
      { s.res with ok := true, timeout := false, n := 0 })

/-- The last CHECK row (R160): every frame processed, the result is valid. -/
def finishRow (s : State) : State :=
  (s.setRes { s.res with valid := true }).setSeq { s.seq with state := .done }

end Sys2Proof.Machine
end

