-- ==== Sys2Proof/Machine/Session.lean ====
section
/-! DEFINITION. The session controller, host of the block (45_host_session.md). Each action of it is one step,
taken while the sequencer is IDLE or DONE (R46, R277, log 16). -/

namespace Sys2Proof.Machine

/-! ### Starting transactions -/

/-- The commands of the setup transaction (R214). -/
def setupCommands : List Instr := [.readStatus, .readStatus, .readStatus, .readId, .setAngleMode]

/-- The commands of the refresh transaction (R218). -/
def refreshCommands : List Instr := [.readAngleX, .readAngleY, .readAngleZ, .readStatus]

/-- The commands of the identity check (R222). -/
def identityCommands : List Instr := [.readId]

/-- The host presents a list by its selectors (R68). A refused start changes nothing (R164). -/
def hostStart (C : Config) (L : List Instr) (s : State) : State := (presentStart C (L.map selectorOf) s).getD s

/-- An operation is over and returned. -/
def returned (r : HostResult) (s : State) : State := s.setSession { s.session with phase := .idle, result := some r }

/-! ### setup -/

/-- setup begins (R212, R224): `SESSION.state <- PoweringUp`, whatever it was. -/
def beginSetup (s : State) : State := s.setSession { s.session with state := .poweringUp, phase := .configure }

/-- `TConfigure`, once; if it does not succeed, Faulted with the cause "communication error" (R212, R227). -/
def setupConfigure (C : Config) (s : State) : State :=
  let a := tConfigure C.bus s
  if a.1 then a.2.setSession { a.2.session with phase := .setMode } else faultSession .communicationError a.2

/-- The bare write of SET_MODE: no TReset, no flush, no read (R213). -/
def setupSetMode (C : Config) (s : State) : State :=
  let s := tWrite (encode C.cmdTab .setMode) s
  s.setSession { s.session with state := .configuringMode, phase := .startSetup }

/-- The setup transaction is started (R214). -/
def setupStart (C : Config) (s : State) : State :=
  let s := hostStart C setupCommands s
  s.setSession { s.session with state := .awaitingReady, phase := .awaitSetup }

/-- The four tests in order; the first that fails gives the cause (R215, R216). -/
def setupFinish (s : State) : State :=
  if !s.res.ok then faultSession .communicationError s
  else if !s.chipReady then faultSession .readinessTimeout s
  else if !identityMatches (frameAt s.res 3) then faultSession .identityMismatch s
  else if !(statusDecode (frameAt s.res 2).data).usable then faultSession .faultBitsSet s
  else returned .setupOk (s.setSession { s.session with state := .ready })

/-! ### refreshState -/

/-- refreshState begins: in Ready only (R218, R225). -/
def beginRefresh (C : Config) (s : State) : State :=
  if s.session.state = .ready then
    let s := hostStart C refreshCommands s
    s.setSession { s.session with phase := .awaitRefresh }
  else returned .refreshIgnored s

/-- The cause the trailing status frame of a refresh gives for Faulted, if it gives one (R221): only under
FAULT_ON_STEADY_STATUS = true. -/
def steadyCause (C : Config) (usable : Bool) : Option Cause :=
  if C.faultOnSteadyStatus && !usable then some .faultBitsSet else none

/-- The session after that frame (R221). -/
def steadyState (C : Config) (usable : Bool) (st : SessionState) : SessionState :=
  match steadyCause C usable with
  | some _ => .faulted
  | none => st

/-- refreshState ends: angles written only if the transaction succeeded, readiness not tested (R218, R220,
R221). -/
def refreshFinish (C : Config) (s : State) : State :=
  if s.res.ok then
    let report := statusDecode (frameAt s.res 3).data
    returned (.refreshed report (steadyCause C report.usable)) (s.setSession { s.session with
      angleX := degrees (frameAt s.res 0).data
      angleY := degrees (frameAt s.res 1).data
      angleZ := degrees (frameAt s.res 2).data
      state := steadyState C report.usable s.session.state })
  else returned .refreshFailed s

/-! ### CheckChipsetID -/

/-- CheckChipsetID begins, in any session state (R222). DESIGN CHOICE (log 29): R222 and R272 say that it needs
the transport configured and not what happens otherwise; the model keeps no record of that and runs the
transaction, from Uninitialized or after a failed `TConfigure` too. -/
def beginIdentity (C : Config) (s : State) : State :=
  let s := hostStart C identityCommands s
  s.setSession { s.session with phase := .awaitIdentity }

/-- CheckChipsetID ends (R222): three tests combined by AND. -/
def identityFinish (s : State) : State :=
  returned (.identity (s.res.ok && s.chipReady && identityMatches (frameAt s.res 0))) s

/-! ### The host's step -/

/-- Begin an operation. -/
def beginOp (C : Config) (op : HostOp) (s : State) : State :=
  match op with
  | .setup => beginSetup s
  | .refreshState => beginRefresh C s
  | .checkChipsetID => beginIdentity C s

/-- Take the next operation asked for, if any (log 15). -/
def takeRequest (C : Config) (s : State) : State :=
  match s.session.pending with
  | [] => s
  | op :: rest => beginOp C op (s.setSession { s.session with pending := rest })

/-- Wait until `SEQ.state = DONE`, then finish (R214, R218, R222). If the transaction was abandoned by a reset of
the block, the wait can only be left by a new request or by the host's own reset (log 21). -/
def awaitDone (C : Config) (finish : State → State) (s : State) : State :=
  if s.seq.state = .done then finish s else takeRequest C s

/-- One action of the host, taken while no transaction runs. -/
def hostStep (C : Config) (s : State) : State :=
  match s.session.phase with
  | .idle => takeRequest C s
  | .configure => setupConfigure C s
  | .setMode => setupSetMode C s
  | .startSetup => setupStart C s
  | .awaitSetup => awaitDone C setupFinish s
  | .awaitRefresh => awaitDone C (refreshFinish C) s
  | .awaitIdentity => awaitDone C identityFinish s

end Sys2Proof.Machine
end

