-- ==== Sys2Proof/Machine/Inputs.lean ====
section
/-! DEFINITION. What reaches the machine before a step (log 15), and the steps that run no instruction. -/

namespace Sys2Proof.Machine

/-- The host is between two operations. It "runs one operation at a time to its end" (R210). -/
def hostFree (s : State) : Bool := s.session.phase == .idle

/-- The input of this step lands. The Bool says that the input is itself the step: an accepted start (the first
row of R165) or a reset. A refused start leaves the row for the state to apply as if no start were presented
(R164, R165). The host is the only party that starts transactions and runs each operation to its end (R210), so
while an operation of it is unfinished nobody presents another list: a start due then counts as none (DEDUCED,
log 28). -/
def landInput (C : Config) (s : State) : State × Bool :=
  match s.inputs with
  | [] => (s, false)
  | .quiet :: rest => (s.setInputs rest, false)
  | .start L :: rest =>
    if hostFree s then
      match presentStart C L (s.setInputs rest) with
      | some t => (t, true)
      | none => (s.setInputs rest, false)
    else (s.setInputs rest, false)
  | .request op :: rest =>
    ((s.setInputs rest).setSession { s.session with pending := s.session.pending ++ [op] }, false)
  | .reset :: rest => (blockReset (s.setInputs rest), true)
  | .sessionReset :: rest => (sessionReset (s.setInputs rest), true)

/-- A step that runs no instruction: a row of the sequencer, or, in IDLE and DONE, the host's turn. SEND with no
command left is a state no run reaches: nothing happens (log 23). FLUSH always runs the flush. -/
def plainStep (C : Config) (s : State) : Host.Outcome State Fault Refusal :=
  match s.seq.state with
  | .reset => .next (resetRow s)
  | .wait => .next (waitRow C.pollLimit s)
  | .read => readRow s
  | .check => .next (finishRow s)
  | .idle | .done => .next (hostStep C s)
  | .send | .flush => .next s

/-- The first step of a one-command program (log 25): the sequencer is in SEND with the command as its list, and
no input is due. -/
def placeCommand (i : Instr) (s : State) : State :=
  (s.setSeq { s.seq with state := .send, n := 1, cmds := i :: s.seq.cmds.drop 1, k := 0 }).setInputs []

end Sys2Proof.Machine
end

