-- ==== Sys2Proof/Machine/Step.lean ====
section
/-! DEFINITION. One step of the machine: the input due lands, then the fetched instruction runs, or the row for
the state applies. -/

namespace Sys2Proof.Machine

/-- The step without its input. -/
def innerStep (s : State) : Host.Outcome State Fault Refusal :=
  match fetch s with
  | some i => exec i s
  | none => plainStep machineConfig s

/-- One step. -/
def step (s : State) : Host.Outcome State Fault Refusal :=
  match landInput machineConfig s with
  | (t, true) => .next t
  | (t, false) => innerStep t

/-- s with the instruction of a table word placed where the next step fetches (log 25). Where the word is no
command there is nothing the block could hold (R68), and s is unchanged. -/
def State.withFetchWord (s : State) (nbits w : Nat) : State :=
  match decodeTableWord nbits w with
  | some i => placeCommand i s
  | none => s

end Sys2Proof.Machine
end

