-- ==== Sys2Proof/Machine/Configured.lean ====
section
/-! DEFINITION. The same machine for ANY configuration: the parameters of R6 are "a named argument of the model".
`step` is this step at `machineConfig` (a statement says so); statements about a poll limit, about no limit, about
FAULT_ON_STEADY_STATUS or about another command table are made here. -/

namespace Sys2Proof.Machine

/-- The meaning of an instruction under a command table. -/
def execIn (T : CmdTab) (i : Instr) (s : State) : Host.Outcome State Fault Refusal :=
  if i.listable then execCommand T i s else flushRow T s

/-- One step under a configuration. -/
def stepIn (C : Config) (s : State) : Host.Outcome State Fault Refusal :=
  match landInput C s with
  | (t, true) => .next t
  | (t, false) =>
    match fetch t with
    | some i => execIn C.cmdTab i t
    | none => plainStep C t

/-- The machine under a configuration, for runs. -/
def configured (C : Config) : Host.Core :=
  { State := State, Fault := Fault, Refusal := Refusal, step := stepIn C, reset := State.reset }

end Sys2Proof.Machine
end

