-- ==== Sys2Proof/Machine/Transaction.lean ====
section
/-! DEFINITION. A transaction as the sequential program at the end of 43_sequencer.md section 2, in closed form:
what it returns and which calls it makes, from the command list, the polls' answers and the bytes read. The
machine does not use it; statements compare the machine's run with it. -/

namespace Sys2Proof.Machine

/-- Response frame i of the bytes read: bytes 4(i+1) to 4(i+1)+3 decoded (R157). Only used where they exist. -/
def frameFrom (bs : List Byte) (i : Nat) : Frame :=
  decodeFrame (wordOfBytes (bs.getD (4 * (i + 1)) 0) (bs.getD (4 * (i + 1) + 1) 0) (bs.getD (4 * (i + 1) + 2) 0)
    (bs.getD (4 * (i + 1) + 3) 0))

/-- `RES.ok` of a transaction that read bs: every frame valid for its command, paired by position (R158). -/
def transactionOk (T : CmdTab) (L : List Instr) (bs : List Byte) : Bool :=
  L.zipIdx.all fun p => verdict T (frameFrom bs p.2) p.1 == .valid

/-- `CHIP_READY` after it: the readiness in the response to the last command, or as before if there is none
(R159, R163). -/
def transactionReady (before : Bool) (n : Nat) (bs : List Byte) : Bool :=
  if n = 0 then before else rsReady (frameFrom bs (n - 1))

/-- The writes of a transaction: every command's word in order, then the flush (R153, R154). -/
def transactionWrites (T : CmdTab) (L : List Instr) : List Call :=
  L.map (fun c => .write (encode T c)) ++ [.write (encode T .readId)]

/-- The calls of a transaction that does not time out (R161): one TReset, N + 1 writes, the polls, one read. -/
def transactionCalls (T : CmdTab) (L : List Instr) (polls : List Nat) (bs : List Byte) : List Call :=
  [.reset] ++ transactionWrites T L ++ polls.map .avail ++ [.read bs]

end Sys2Proof.Machine
end

