-- ==== Sys2Proof/Safety.lean ====
section
/-! DEFINITION. What a sound state is: the invariants of the block, of the host and of the boundary that rule out
the states no run reaches, and what a run that never stops is. -/

namespace Sys2Proof.Machine

/-- The invariant of the block under a configuration. -/
structure Inv (C : Config) (s : State) : Prop where
  /-- `SEQ.n` is at most `N_MAX` (R15). -/
  n_le : s.seq.n ≤ C.nMax
  /-- "`SEQ.k` never exceeds `SEQ.n`" (R21). -/
  k_le : s.seq.k ≤ s.seq.n
  /-- The command list was captured (R151). -/
  cmds_captured : s.seq.n ≤ s.seq.cmds.length
  /-- Every selector held is one of the seven; the flush is never an element of a list (R68, R138). -/
  cmds_listable : ∀ c ∈ s.seq.cmds, c.listable = true
  /-- The same of the commands paired with frames (R17). -/
  req_listable : ∀ c ∈ s.res.req, c.listable = true
  /-- "a Frame is never treated as valid without this check": every frame held carries its flag (R114). -/
  frames_checked : ∀ f ∈ s.res.frame, f.crcError = crcErrorOf (frameWord f)
  /-- While a transaction runs no result is presented (R17). -/
  busy_result : busy s = true → s.res.valid = false
  /-- In DONE a result is presented (R160). -/
  done_result : s.seq.state = .done → s.res.valid = true
  /-- RESET comes before any command (R151). -/
  reset_index : s.seq.state = .reset → s.seq.k = 0
  /-- In SEND a command is left to transmit (R153). -/
  send_index : s.seq.state = .send → s.seq.k < s.seq.n
  /-- From FLUSH to READ every command was transmitted (R153). -/
  sent_index : s.seq.state = .flush ∨ s.seq.state = .wait ∨ s.seq.state = .read → s.seq.k = s.seq.n
  /-- In WAIT the poll limit is not reached (R156). -/
  wait_polls : s.seq.state = .wait → limitReached C.pollLimit s.seq.polls = false
  /-- Poll, then read: in READ the bytes to read are there (R170, R284). -/
  read_bytes : s.seq.state = .read → frameBytes s.seq.n ≤ s.port.received.length
  /-- In CHECK the receive buffer holds the whole transaction (R16). -/
  check_bytes : s.seq.state = .check → s.seq.rx.length = frameBytes s.seq.n
  /-- In CHECK the frames present are those processed (R158). -/
  check_count : s.seq.state = .check → s.res.n = s.seq.k ∧ s.res.timeout = false
  /-- Each frame of the transaction in CHECK is paired with its command (R17). -/
  check_pairs : s.seq.state = .check → ∀ i < s.res.n, reqAt s.res i = cmdAt s.seq i
  /-- The frames counted by `RES.n` were written (R17). -/
  result_written : s.seq.state = .check ∨ s.res.valid = true → s.res.n ≤ s.res.frame.length ∧ s.res.n ≤ s.res.req.length
  /-- `RES.ok` is true exactly when every frame is valid for its command (R158). -/
  result_judged : s.seq.state = .check ∨ s.res.valid = true → s.res.timeout = false →
    (s.res.ok = true ↔ ∀ i < s.res.n, verdict C.cmdTab (frameAt s.res i) (reqAt s.res i) = .valid)
  /-- A timeout is a failure with no frames (R156). -/
  result_timeout : s.res.valid = true → s.res.timeout = true → s.res.ok = false ∧ s.res.n = 0
  /-- CHIP_READY is the readiness in the last frame processed (R159, R282). -/
  result_ready : s.seq.state = .check ∨ s.res.valid = true → 0 < s.res.n →
    s.chipReady = rsReady (frameAt s.res (s.res.n - 1))

/-- What `SESSION.state` is while a host operation stands at a phase (R212 to R215, R218); no constraint where
no operation runs or the operation is allowed in any state (R222). -/
def phaseState : HostPhase → Option SessionState
  | .idle => none
  | .configure => some .poweringUp
  | .setMode => some .poweringUp
  | .startSetup => some .configuringMode
  | .awaitSetup => some .awaitingReady
  | .awaitRefresh => some .ready
  | .awaitIdentity => none

/-- The commands of the transaction a waiting host started (R214, R218, R222). -/
def phaseCommands : HostPhase → Option (List Instr)
  | .idle => none
  | .configure => none
  | .setMode => none
  | .startSetup => none
  | .awaitSetup => some setupCommands
  | .awaitRefresh => some refreshCommands
  | .awaitIdentity => some identityCommands

/-- An angle as refreshState writes it (R218), or the value 0 named for reset (log 13), which is one of those. -/
def isAngle (a : Rat) : Prop := ∃ d : Half, a = degrees d

/-- The invariant of the host. -/
structure HostInv (s : State) : Prop where
  /-- The session state agrees with the operation running. -/
  phase_state : ∀ st, phaseState s.session.phase = some st → s.session.state = st
  /-- The transaction a host operation waits for is the one it started (R210), unless a reset of the block
  abandoned it and left the sequencer IDLE (R270, log 21). -/
  own_transaction : ∀ L, phaseCommands s.session.phase = some L →
    s.seq.state = .idle ∨ (s.seq.n = L.length ∧ s.seq.cmds.take L.length = L)
  /-- Angles are converted payloads. -/
  angle_x : isAngle s.session.angleX
  angle_y : isAngle s.session.angleY
  angle_z : isAngle s.session.angleZ

/-- The transitions of the session (R211, R224), with the host's own reset (R271, log 22). -/
def sessionMay (a b : SessionState) : Bool :=
  match a, b with
  | _, .poweringUp => true
  | _, .uninitialized => true
  | .poweringUp, .configuringMode => true
  | .poweringUp, .faulted => true
  | .configuringMode, .awaitingReady => true
  | .awaitingReady, .ready => true
  | .awaitingReady, .faulted => true
  | _, _ => false

/-- The run of k steps from s does not stop. -/
def RunsFor (k : Nat) (s : State) : Prop := ∃ t, Sys2Proof.core.run k s = .next t

end Sys2Proof.Machine
end

