-- ==== Sys2Proof/Certificates/Slice0/Obligations.lean ====
section
/-! DEFINITION. The statements for the provers. Each docstring names the rule of spec/ it formalises, or says
that it is derived. `machineConfig.cmdTab` is the default table (log 1): a statement that names command words
rests on it. No statement rests on a value of a free constant or on a reset value the model chose. -/

open Sys2Proof Sys2Proof.Machine

/-! ### The CRC-8 engine -/

/-- R95: the transmitted CRC field never enters. -/
def Obligations.CrcIgnoresTheLowByte : Prop :=
  ∀ w : Word, crc8 w = crc8 (w &&& 0xFFFFFF00)

/-- The step of R93 on single bits, as 40_crc8.md section 1 writes it. -/
def Obligations.CrcStepOnSingleBits : Prop :=
  ∀ (a : Byte) (x : Bool),
    let f := a.getLsbD 7 ^^ x
    let n := crcStep a x
    n.getLsbD 7 = a.getLsbD 6 ∧ n.getLsbD 6 = a.getLsbD 5 ∧ n.getLsbD 5 = a.getLsbD 4 ∧
    n.getLsbD 4 = (a.getLsbD 3 ^^ f) ∧ n.getLsbD 3 = (a.getLsbD 2 ^^ f) ∧ n.getLsbD 2 = (a.getLsbD 1 ^^ f) ∧
    n.getLsbD 1 = a.getLsbD 0 ∧ n.getLsbD 0 = f

/-- R98, whole: the affine law, its constant, the table of contributions and the XOR form. -/
def Obligations.CrcIsAffineOverXor : Prop :=
  (∀ u v : Word, crc8 (u ^^^ v) = crc8 u ^^^ crc8 v ^^^ 0xF1) ∧ crc8 0 = 0xF1 ∧
  (∀ b, 8 ≤ b → b < 32 → crcContribution b = crc8 ((1 : Word) <<< b) ^^^ 0xF1) ∧
  (∀ w : Word, crc8 w = 0xF1 ^^^ crcXorNetwork w)

/-- The first sentence of R97: the bit-serial engine is the usual byte-wise one over the three upper bytes. -/
def Obligations.CrcIsTheBytewiseEngine : Prop :=
  ∀ w : Word, crc8 w = crcOfBytes [w.extractLsb' 24 8, w.extractLsb' 16 8, w.extractLsb' 8 8]

/-- The accumulator is the polynomial remainder. R102 prints a dividend that disagrees with R91 to R94; this is
the one that agrees (log 26). -/
def Obligations.CrcIsThePolynomialRemainder : Prop :=
  ∀ w : Word, crcAcc w = polyRem (crcDividend w)

/-- R99: which changes of a valid frame pass, whatever the frame. -/
def Obligations.CorruptionPassesExactlyWhenContributionsCancel : Prop :=
  ∀ w e : Word, crcErrorOf w = false → (crcErrorOf (w ^^^ e) = false ↔ crcXorNetwork e = crcField e)

/-- R99 (a) and (b): every flip of one bit or of two different bits of a valid frame is detected. -/
def Obligations.OneAndTwoBitFlipsAreDetected : Prop :=
  ∀ w : Word, crcErrorOf w = false → ∀ i j, i < 32 → j < 32 →
    crcErrorOf (w ^^^ (1 : Word) <<< i) = true ∧
    (i ≠ j → crcErrorOf (w ^^^ ((1 : Word) <<< i ^^^ (1 : Word) <<< j)) = true)

/-- R99 (c): the three-bit flips that pass are the 18 the spec lists. -/
def Obligations.ThreeBitFlipsThatPassAreTheEighteenListed : Prop :=
  ∀ w : Word, crcErrorOf w = false → ∀ i j k, i < j → j < k → k < 32 →
    (crcErrorOf (w ^^^ ((1 : Word) <<< i ^^^ (1 : Word) <<< j ^^^ (1 : Word) <<< k)) = false ↔
      (1 : Word) <<< i ^^^ (1 : Word) <<< j ^^^ (1 : Word) <<< k ∈
        ([0x02000003, 0x00200401, 0x04000006, 0x00400802, 0x0800000C, 0x00801004, 0x10000018, 0x01002008,
          0x20000030, 0x02004010, 0x40000060, 0x04008020, 0x800000C0, 0x08010040, 0x10020080, 0x20040100,
          0x40080200, 0x80100400] : List Word))

/-! ### The frame codec -/

/-- R111 and R112: where each field stands, as arithmetic on the word, and when the flag is set. -/
def Obligations.DecodeTakesFieldsAndComputesTheFlag : Prop :=
  ∀ w : Word, let f := decodeFrame w
    f.rd.toNat = w.toNat / 2 ^ 31 ∧ f.addr.toNat = w.toNat / 2 ^ 26 % 2 ^ 5 ∧ f.rs.toNat = w.toNat / 2 ^ 24 % 2 ^ 2 ∧
    f.data.toNat = w.toNat / 2 ^ 8 % 2 ^ 16 ∧ f.crc.toNat = w.toNat % 2 ^ 8 ∧ (f.crcError = true ↔ crc8 w ≠ f.crc)

/-- R115: the two byte orders are inverse to each other, most significant byte first. -/
def Obligations.BytesAndWordsAreInverse : Prop :=
  (∀ b0 b1 b2 b3 : Byte, bytesOfWord (wordOfBytes b0 b1 b2 b3) = [b0, b1, b2, b3]) ∧
  (∀ w : Word, ∃ b0 b1 b2 b3, bytesOfWord w = [b0, b1, b2, b3] ∧ wordOfBytes b0 b1 b2 b3 = w ∧
    w.toNat = b0.toNat * 2 ^ 24 + b1.toNat * 2 ^ 16 + b2.toNat * 2 ^ 8 + b3.toNat)

/-- R118, whole: both directions of the round trip, and every table word is the encoding of its own fields. -/
def Obligations.DecodeAndEncodeFieldsRoundTrip : Prop :=
  (∀ rd addr rs data, decodeFrame (encodeFields rd addr rs data) =
    { rd := rd, addr := addr, rs := rs, data := data, crc := crc8 (encodeFields rd addr rs data), crcError := false }) ∧
  (∀ w : Word, (decodeFrame w).crcError = false ↔
    w = encodeFields (rdField w) (addrField w) (rsField w) (dataField w)) ∧
  (∀ T : CmdTab, T.checksummed = true → ∀ c, c.listable = true → cmdWord T c =
    encodeFields (rdField (cmdWord T c)) (addrField (cmdWord T c)) (rsField (cmdWord T c)) (dataField (cmdWord T c)))

/-- R69: one valid word for each value of the upper 24 bits, so 2^24 of them. -/
def Obligations.OneValidWordPerUpperBits : Prop :=
  ∀ u : BitVec 24, ∃! w : Word, w.extractLsb' 8 24 = u ∧ (decodeFrame w).crcError = false

/-- R121: the three tags, the checksum before the address, whatever else the frame holds and whatever the table. -/
def Obligations.VerdictChecksChecksumThenAddress : Prop :=
  ∀ (T : CmdTab) (f : Frame) (c : Instr),
    (f.crcError = true → verdict T f c = .crcError) ∧
    (f.crcError = false → f.addr ≠ requestAddr T c → verdict T f c = .addressMismatch) ∧
    (f.crcError = false → f.addr = requestAddr T c → verdict T f c = .valid)

/-! ### Commands and their words -/

/-- Decoding and encoding agree (R66, R68, R116), for any table of seven different words, with any bytes after
the word; and whatever decodes is the encoding of what it decodes to. The flush shares the word of READ_ID and
decodes to it (R138, log 2). -/
def Obligations.DecodeAndEncodeOfCommandsAgree : Prop :=
  (∀ T : CmdTab, (commands.map (cmdWord T)).Nodup → ∀ i, i.listable = true → ∀ rest,
    decodeBytes T (encode T i ++ rest) = .ok (i, rest)) ∧
  (∀ T bs i rest, decodeBytes T bs = .ok (i, rest) → i.listable = true ∧ bs = encode T i ++ rest) ∧
  (∀ T bs, decodeBytes T bs = .error .tooShort ↔ bs.length < 4) ∧
  (commands.map (cmdWord defaultTable)).Nodup ∧
  (∀ rest, decodeBytes defaultTable (encode defaultTable .flush ++ rest) = .ok (.readId, rest))

/-- The eight rows of the opcode table, as bytes on the transport and as table words (default words, log 1). -/
def Obligations.WrittenOutWordsDecode : Prop :=
  decodeBytes defaultTable [0xB4, 0x00, 0x00, 0x1F] = .ok (.setMode, []) ∧
  decodeBytes defaultTable [0xB0, 0x00, 0x1F, 0x6F] = .ok (.setAngleMode, []) ∧
  decodeBytes defaultTable [0x18, 0x00, 0x00, 0xE5] = .ok (.readStatus, []) ∧
  decodeBytes defaultTable [0x40, 0x00, 0x00, 0x91] = .ok (.readId, []) ∧
  decodeBytes defaultTable [0x24, 0x00, 0x00, 0xC7] = .ok (.readAngleX, []) ∧
  decodeBytes defaultTable [0x28, 0x00, 0x00, 0xCD] = .ok (.readAngleY, []) ∧
  decodeBytes defaultTable [0x2C, 0x00, 0x00, 0xCB] = .ok (.readAngleZ, []) ∧
  decodeBytes defaultTable [0x40, 0x00, 0x00, 0x92] = .error .notACommand ∧
  decodeTableWord 32 0b10110100000000000000000000011111 = some .setMode ∧
  decodeTableWord 32 0b01000000000000000000000010010001 = some .readId

/-- R68: a selector names one of the seven commands, or is the reserved 7; the flush has none (R138). -/
def Obligations.SelectorsNameTheSevenCommands : Prop :=
  (∀ x : Selector, commandOfSelector x = none ↔ x = 7) ∧
  (∀ (x : Selector) (i : Instr), commandOfSelector x = some i ↔ i.listable = true ∧ selectorOf i = x)

/-! ### What an instruction does -/

/-- R130 (1) and R153: in SEND, with a command left, each of the seven commands runs to a next state in which its
word was written as four bytes, most significant first, unmodified, and the index moved on; all else is as
before. -/
def Obligations.CommandsTransmitTheirWordInSend : Prop :=
  ∀ (i : Instr) (s : State), i.listable = true → s.seq.state = .send → s.seq.k < s.seq.n →
    let w := cmdWord machineConfig.cmdTab i
    exec i s = .next { s with
      port := { s.port with calls := s.port.calls ++
        [.write [w.extractLsb' 24 8, w.extractLsb' 16 8, w.extractLsb' 8 8, w.extractLsb' 0 8]] }
      seq := { s.seq with k := s.seq.k + 1, state := if s.seq.k + 1 = s.seq.n then .flush else .send } }

/-- The bytes each instruction puts on the transport (R131 to R138, default words, log 1). -/
def Obligations.EachInstructionSendsItsOwnBytes : Prop :=
  ∀ s : State, (s.seq.state = .send → s.seq.k < s.seq.n →
    (∃ t, exec .setMode s = .next t ∧ t.port.calls = s.port.calls ++ [.write [0xB4, 0x00, 0x00, 0x1F]]) ∧
    (∃ t, exec .setAngleMode s = .next t ∧ t.port.calls = s.port.calls ++ [.write [0xB0, 0x00, 0x1F, 0x6F]]) ∧
    (∃ t, exec .readStatus s = .next t ∧ t.port.calls = s.port.calls ++ [.write [0x18, 0x00, 0x00, 0xE5]]) ∧
    (∃ t, exec .readId s = .next t ∧ t.port.calls = s.port.calls ++ [.write [0x40, 0x00, 0x00, 0x91]]) ∧
    (∃ t, exec .readAngleX s = .next t ∧ t.port.calls = s.port.calls ++ [.write [0x24, 0x00, 0x00, 0xC7]]) ∧
    (∃ t, exec .readAngleY s = .next t ∧ t.port.calls = s.port.calls ++ [.write [0x28, 0x00, 0x00, 0xCD]]) ∧
    (∃ t, exec .readAngleZ s = .next t ∧ t.port.calls = s.port.calls ++ [.write [0x2C, 0x00, 0x00, 0xCB]])) ∧
  (s.seq.state = .flush →
    ∃ t, exec .flush s = .next t ∧ t.port.calls = s.port.calls ++ [.write [0x40, 0x00, 0x00, 0x91]])

/-- R130 (2) to (4), R158, R159: in CHECK, with a frame left, each of the seven commands runs to a next state: its
response frame is decoded from its four received bytes and stored with the command, `RES.n` counts it, `RES.ok`
stays only if it is valid, CHIP_READY is overwritten whatever the verdict, and all else is as before, every other
entry of `RES` too. `ACC` is left as the computation of the frame's checksum leaves it (log 12). -/
def Obligations.CommandsJudgeTheirResponseInCheck : Prop :=
  ∀ (i : Instr) (s : State), i.listable = true → s.seq.state = .check → s.seq.k < s.seq.n →
    let k := s.seq.k
    let w := wordOfBytes (rxAt s.seq (4 * k + 4)) (rxAt s.seq (4 * k + 5)) (rxAt s.seq (4 * k + 6))
      (rxAt s.seq (4 * k + 7))
    let f := decodeFrame w
    ∃ t, exec i s = .next t ∧
      frameAt t.res k = f ∧ reqAt t.res k = i ∧
      (∀ j, j ≠ k → frameAt t.res j = frameAt s.res j ∧ reqAt t.res j = reqAt s.res j) ∧
      t.res.n = k + 1 ∧
      (t.res.ok = true ↔ s.res.ok = true ∧ f.crcError = false ∧ f.addr = requestAddr machineConfig.cmdTab i) ∧
      t.res.valid = s.res.valid ∧ t.res.timeout = s.res.timeout ∧
      (t.chipReady = true ↔ f.rs = 1) ∧
      t.acc = crcAcc w ∧ t.seq = { s.seq with k := k + 1 } ∧
      t.session = s.session ∧ t.port = s.port ∧ t.env = s.env ∧ t.inputs = s.inputs

/-- R130: a command "has no operand and no effect inside the block by itself": it has none outside SEND and
CHECK, nor where no element of the list is left. -/
def Obligations.CommandsHaveNoEffectElsewhere : Prop :=
  ∀ (i : Instr) (s : State), i.listable = true →
    (s.seq.state ≠ .send ∧ s.seq.state ≠ .check) ∨ s.seq.n ≤ s.seq.k → exec i s = .next s

/-- R154: in FLUSH the flush writes the word of READ_ID, clears the poll count and begins the wait; all else is as
before. -/
def Obligations.FlushTransmitsAndBeginsTheWait : Prop :=
  ∀ s : State, s.seq.state = .flush →
    exec .flush s = .next { s with
      port := { s.port with calls := s.port.calls ++ [.write (bytesOfWord (cmdWord machineConfig.cmdTab .readId))] }
      seq := { s.seq with polls := 0, state := .wait } }

/-- R138: whenever it is run, the flush touches neither the result nor CHIP_READY, and no frame is paired with
it. -/
def Obligations.FlushTouchesNoResult : Prop :=
  ∀ s : State, ∃ t, exec .flush s = .next t ∧ t.res = s.res ∧ t.chipReady = s.chipReady ∧ t.acc = s.acc ∧
    t.session = s.session ∧ t.env = s.env ∧ t.inputs = s.inputs ∧ t.port.received = s.port.received ∧
    t.seq.n = s.seq.n ∧ t.seq.cmds = s.seq.cmds ∧ t.seq.k = s.seq.k ∧ t.seq.rx = s.seq.rx ∧
    (s.seq.state ≠ .flush → t = s)

/-- R130, R168: of a response only the checksum test, the address and `rs` matter; `rd` and `data` change neither
`RES.ok` nor CHIP_READY. -/
def Obligations.DirectionAndPayloadAreNeverTested : Prop :=
  ∀ (i : Instr) (s : State) (rx : List Byte), s.seq.state = .check →
    let s' : State := { s with seq := { s.seq with rx := rx } }
    let f := decodeFrame (responseWord s.seq s.seq.k)
    let f' := decodeFrame (responseWord s'.seq s.seq.k)
    f.addr = f'.addr → f.rs = f'.rs → f.crcError = f'.crcError →
    ∃ t t', exec i s = .next t ∧ exec i s' = .next t' ∧ t.res.ok = t'.res.ok ∧ t.chipReady = t'.chipReady

/-- R168, R274: the artifact frame is not looked at: two machines that differ in the first four bytes received do
the same in CHECK. -/
def Obligations.ArtifactFrameIsNeverLookedAt : Prop :=
  ∀ (s : State) (rx : List Byte), s.inputs = [] → s.seq.state = .check →
    (∀ j, 4 ≤ j → rxAt { s.seq with rx := rx } j = rxAt s.seq j) →
    ∃ t, step s = .next t ∧
      step { s with seq := { s.seq with rx := rx } } = .next { t with seq := { t.seq with rx := rx } }

/-! ### The step -/

/-- The step runs the fetched instruction: in SEND and CHECK the command at the index, in FLUSH the flush (R153,
R154, R158); a quiet input changes nothing but the schedule. -/
def Obligations.StepRunsTheCommandAtTheIndex : Prop :=
  (∀ (s : State) (i : Instr), s.inputs = [] → (s.seq.state = .send ∨ s.seq.state = .check) → s.seq.k < s.seq.n →
    s.seq.cmds[s.seq.k]? = some i → step s = exec i s) ∧
  (∀ s : State, s.inputs = [] → s.seq.state = .flush → step s = exec .flush s) ∧
  (∀ (s : State) (i : Instr) (rest : List Input), s.inputs = .quiet :: rest →
    (s.seq.state = .send ∨ s.seq.state = .check) → s.seq.k < s.seq.n → s.seq.cmds[s.seq.k]? = some i →
    step s = exec i { s with inputs := rest }) ∧
  (∀ (s : State) (rest : List Input), s.inputs = .quiet :: rest → s.seq.state = .flush →
    step s = exec .flush { s with inputs := rest })

/-- A word placed for the next step is the instruction that step runs (log 25). -/
def Obligations.StepRunsAPlacedWord : Prop :=
  ∀ (s : State) (nbits w : Nat) (i : Instr), decodeTableWord nbits w = some i →
    step (s.withFetchWord nbits w) = exec i (s.withFetchWord nbits w)

/-- The machine is the configured machine at the configuration the spec's parameters give (R6), and that is a
configuration the spec allows (R67, R156). -/
def Obligations.StepIsTheConfiguredStep : Prop :=
  machineConfig.wellFormed = true ∧ ∀ s : State, step s = stepIn machineConfig s

/-- R151: an accepted start of a host between two operations, with every write it makes; all else is as before.
While an operation of the host is unfinished a start is none (DEDUCED from R210, log 28). -/
def Obligations.AcceptedStartCapturesTheList : Prop :=
  (∀ (s : State) (L : List Selector) (rest : List Input), s.inputs = .start L :: rest → s.session.phase ≠ .idle →
    step s = step { s with inputs := .quiet :: rest }) ∧
  ∀ (s : State) (L : List Selector) (rest : List Input), s.inputs = .start L :: rest → s.session.phase = .idle →
    s.seq.state = .idle ∨ s.seq.state = .done → selectorsWellFormed machineConfig.nMax L = true →
    ∃ t, step s = .next t ∧ t.seq.state = .reset ∧ t.seq.n = L.length ∧
      (∀ i, i < L.length → commandOfSelector (L.getD i 0) = some (cmdAt t.seq i)) ∧
      (∀ i, L.length ≤ i → cmdAt t.seq i = cmdAt s.seq i) ∧
      t.seq.k = 0 ∧ t.seq.polls = 0 ∧ t.seq.rx = s.seq.rx ∧ t.res = { s.res with valid := false } ∧
      t.chipReady = s.chipReady ∧ t.acc = s.acc ∧ t.session = s.session ∧ t.port = s.port ∧ t.env = s.env ∧
      t.inputs = rest

/-- R164: a start while busy, of a list too long, or of a list with the reserved selector is refused: the step is
the one without it. -/
def Obligations.RefusedStartIsNoStart : Prop :=
  ∀ (s : State) (L : List Selector) (rest : List Input), s.inputs = .start L :: rest →
    busy s = true ∨ machineConfig.nMax < L.length ∨ (7 : Selector) ∈ L →
    step s = step { s with inputs := .quiet :: rest }

/-- R165, third row, and R160: in IDLE and DONE with no input and a host that asks for nothing, nothing changes. -/
def Obligations.IdleAndDoneStandStill : Prop :=
  ∀ s : State, s.inputs = [] → s.seq.state = .idle ∨ s.seq.state = .done → s.session.phase = .idle →
    s.session.pending = [] → step s = .next s

/-- R152: the RESET row; all else is as before. -/
def Obligations.ResetRowClearsTheTransport : Prop :=
  ∀ s : State, s.inputs = [] → s.seq.state = .reset →
    step s = .next { s with
      port := { calls := s.port.calls ++ [.reset], received := [] }
      seq := { s.seq with state := if 0 < s.seq.n then .send else .flush } }

/-- Derived from R155, R156: the three WAIT rows under any configuration, for the answer a of `TAvail`, scripted
or drawn. The threshold is 4(N+1) bytes. That the bytes answered for arrive with the poll, after those already
there, is the model's choice (DESIGN CHOICE, log 7), and no rule's. -/
def Obligations.WaitRowsPollAndTimeOut : Prop :=
  ∀ (C : Config) (s : State), s.inputs = [] → s.seq.state = .wait →
    let a := s.env.avail.headD (Config.freeAvail s.env.draws)
    ∃ t, stepIn C s = .next t ∧ t.port.calls = s.port.calls ++ [.avail a] ∧ a ≤ t.port.received.length ∧
      (∃ bs, t.port.received = s.port.received ++ bs) ∧ t.env.avail = s.env.avail.tail ∧
      t.chipReady = s.chipReady ∧ t.acc = s.acc ∧ t.session = s.session ∧ t.inputs = [] ∧
      (4 * (s.seq.n + 1) ≤ a → t.seq = { s.seq with state := .read } ∧ t.res = s.res) ∧
      (a < 4 * (s.seq.n + 1) → (∀ p, C.pollLimit = some p → s.seq.polls + 1 < p) →
        t.seq = { s.seq with polls := s.seq.polls + 1 } ∧ t.res = s.res) ∧
      (a < 4 * (s.seq.n + 1) → (∃ p, C.pollLimit = some p ∧ p ≤ s.seq.polls + 1) →
        t.seq = { s.seq with polls := s.seq.polls + 1, state := .done } ∧
        t.res = { s.res with valid := true, ok := false, timeout := true, n := 0 })

/-- R157: the READ row takes exactly 4(N+1) bytes, the oldest, and leaves the rest in the transport. With fewer
there the call blocks and the machine has no further step (93_implementation_defined.md S2). -/
def Obligations.ReadRowTakesTheWholeTransaction : Prop :=
  ∀ s : State, s.inputs = [] → s.seq.state = .read →
    (∀ bs more : List Byte, s.port.received = bs ++ more → bs.length = 4 * (s.seq.n + 1) →
      step s = .next { s with
        port := { calls := s.port.calls ++ [.read bs], received := more }
        seq := { s.seq with rx := bs, k := 0, state := .check }
        res := { s.res with ok := true, timeout := false, n := 0 } }) ∧
    (s.port.received.length < 4 * (s.seq.n + 1) → step s = .fault .readWouldBlock)

/-- R160: with every frame processed the result becomes valid; all else is as before. -/
def Obligations.LastCheckRowPresentsTheResult : Prop :=
  ∀ s : State, s.inputs = [] → s.seq.state = .check → s.seq.k = s.seq.n →
    step s = .next { s with res := { s.res with valid := true }, seq := { s.seq with state := .done } }

/-- R270, R271: the reset input, at any time: the block takes the values of R23, no call is made, and neither the
transport, nor the environment, nor the host is reset. -/
def Obligations.BlockResetAbandonsTheTransaction : Prop :=
  ∀ (s : State) (rest : List Input), s.inputs = .reset :: rest →
    ∃ t, step s = .next t ∧ t.chipReady = false ∧ t.seq.state = .idle ∧ t.seq.n = 0 ∧ t.seq.k = 0 ∧ t.seq.polls = 0 ∧
      t.res.valid = false ∧ t.res.ok = false ∧ t.res.timeout = false ∧ t.res.n = 0 ∧
      t.port = s.port ∧ t.env = s.env ∧ t.session = s.session ∧ t.inputs = rest

/-- R23: what the spec says reset leaves. -/
def Obligations.ResetValuesOfTheSpec : Prop :=
  let s := State.reset
  s.chipReady = false ∧ s.seq.state = .idle ∧ s.seq.n = 0 ∧ s.seq.k = 0 ∧ s.seq.polls = 0 ∧ s.res.valid = false ∧
    s.res.ok = false ∧ s.res.timeout = false ∧ s.res.n = 0 ∧ s.session.state = .uninitialized

/-! ### Whole-machine rules -/

/-- The invariant of the block holds after reset. -/
def Obligations.BlockInvariantHoldsAtReset : Prop := Inv machineConfig State.reset

/-- Every step from every state that meets the block's invariant keeps it (R15, R17, R21, R114, R158, R160,
R170). That a poll's bytes are there in READ rests on log 7. -/
def Obligations.EveryStepKeepsTheBlockInvariant : Prop :=
  ∀ s t : State, Inv machineConfig s → step s = .next t → Inv machineConfig t

/-- R170, R44: poll, then read: from a state that meets the invariant no run ever stops, so `TRead` never
blocks. That the bytes a poll answered for are there rests on log 7. -/
def Obligations.NoRunFromASoundStateStops : Prop :=
  ∀ (s : State) (k : Nat), Inv machineConfig s → RunsFor k s

/-- The host's invariant holds after reset. The angles' part rests on the reset value the model names (log 13). -/
def Obligations.HostInvariantHoldsAtReset : Prop := HostInv State.reset

/-- Every step keeps the host's invariant: the session state agrees with the operation that runs, the transaction
an operation waits for is its own (R210, log 28), and the angles are converted payloads (R211 to R218). -/
def Obligations.EveryStepKeepsTheHostInvariant : Prop :=
  ∀ s t : State, HostInv s → step s = .next t → HostInv t

/-- R211, R224: the transitions of the session are the ones listed, and there is no transition from Ready to
Faulted. A host reset (R271, log 22) can lead to Uninitialized. -/
def Obligations.SessionTransitionsAreTheListedOnes : Prop :=
  ∀ s t : State, HostInv s → step s = .next t → s.session.state ≠ t.session.state →
    sessionMay s.session.state t.session.state = true ∧
    (t.session.state = .uninitialized → ∃ rest, s.inputs = .sessionReset :: rest)

/-- R14: CHIP_READY changes only where a response frame is processed, or by reset. -/
def Obligations.ChipReadyIsWrittenOnlyFromFrames : Prop :=
  ∀ s t : State, step s = .next t → t.chipReady ≠ s.chipReady →
    (s.seq.state = .check ∧ s.seq.k < s.seq.n ∧
      t.chipReady = decide ((decodeFrame (responseWord s.seq s.seq.k)).rs = 1)) ∨
    (∃ rest, s.inputs = .reset :: rest)

/-- R17, R283: a presented result stays as it is until an accepted start (which puts the sequencer in RESET) or a
reset of the block, and those take it away. -/
def Obligations.ResultLastsUntilTheNextStart : Prop :=
  ∀ s t : State, Inv machineConfig s → s.res.valid = true → step s = .next t →
    t.res = s.res ∨
    (t.res.valid = false ∧ (t.seq.state = .reset ∨ ∃ rest, s.inputs = .reset :: rest))

/-- R18: the angles are written only by a refresh whose transaction succeeded. -/
def Obligations.AnglesAreWrittenOnlyByASuccessfulRefresh : Prop :=
  ∀ s t : State, step s = .next t →
    (t.session.angleX = s.session.angleX ∧ t.session.angleY = s.session.angleY ∧ t.session.angleZ = s.session.angleZ) ∨
    (s.session.phase = .awaitRefresh ∧ s.seq.state = .done ∧ s.res.ok = true)

/-- R165, the column of calls: a step makes at most one call of the transport, and which one is fixed by the state
it starts in (or, in IDLE and DONE, by the host operation, R212, R213). -/
def Obligations.EachStepMakesTheCallOfItsRow : Prop :=
  ∀ s t : State, step s = .next t →
    t.port.calls = s.port.calls ∨
    ∃ c, t.port.calls = s.port.calls ++ [c] ∧
      match c with
      | .reset => s.seq.state = .reset
      | .write bs => bs.length = 4 ∧ (s.seq.state = .send ∨ s.seq.state = .flush ∨
          (busy s = false ∧ s.session.phase = .setMode))
      | .avail _ => s.seq.state = .wait
      | .read bs => s.seq.state = .read ∧ bs.length = 4 * (s.seq.n + 1)
      | .configure _ ok => busy s = false ∧ s.session.phase = .configure ∧
          t.session.phase = (if ok then .setMode else .idle)

/-- R150, R153 to R161, R163, R165: the machine's run of a whole transaction is the sequential program of
43_sequencer.md, under any configuration. From IDLE or DONE, the host between two operations (log 28), with a list
the start accepts, polls that fail below the limit, one that finds the 4(N+1) bytes, and those bytes arriving with
the polls (log 7): the run ends in DONE with every frame decoded and paired by
position, `RES.ok` the conjunction of the verdicts, CHIP_READY from the last frame (unchanged for the empty
list), and exactly the calls of the program: one TReset, N + 1 writes, the polls, one read. -/
def Obligations.TransactionRunsTheSequentialProgram : Prop :=
  ∀ (C : Config) (s : State) (L : List Instr) (polls : List Nat) (a : Nat) (more : List Nat) (bs extra : List Byte),
    s.inputs = [.start (L.map selectorOf)] → s.session.phase = .idle → s.seq.state = .idle ∨ s.seq.state = .done →
    listWellFormed C.nMax L = true →
    s.env.avail = polls ++ a :: more → (∀ p ∈ polls, p < 4 * (L.length + 1)) → 4 * (L.length + 1) ≤ a →
    limitReached C.pollLimit polls.length = false →
    s.env.incoming = bs ++ extra → bs.length = 4 * (L.length + 1) → a ≤ s.env.incoming.length →
    ∃ t, (configured C).run (2 * L.length + polls.length + 6) s = .next t ∧
      t.seq.state = .done ∧ t.res.valid = true ∧ t.res.timeout = false ∧ t.res.n = L.length ∧
      t.res.ok = transactionOk C.cmdTab L bs ∧
      (∀ i, i < L.length → frameAt t.res i = frameFrom bs i ∧ L[i]? = some (reqAt t.res i)) ∧
      t.chipReady = transactionReady s.chipReady L.length bs ∧
      t.port.calls = s.port.calls ++ transactionCalls C.cmdTab L (polls ++ [a]) bs ∧
      t.session = s.session ∧ t.inputs = []

/-- R156, R161: the run that times out, under any configuration with a poll limit p: after the writes exactly p
polls and nothing else; DONE, no frames, CHIP_READY and the frames held as before. The host is between two
operations (log 28). -/
def Obligations.TimeoutRunPollsExactlyToTheLimit : Prop :=
  ∀ (C : Config) (p : Nat) (s : State) (L : List Instr) (polls more : List Nat),
    C.pollLimit = some p → 0 < p → polls.length = p →
    s.inputs = [.start (L.map selectorOf)] → s.session.phase = .idle → s.seq.state = .idle ∨ s.seq.state = .done →
    listWellFormed C.nMax L = true →
    s.env.avail = polls ++ more → (∀ a ∈ polls, a < 4 * (L.length + 1)) →
    ∃ t, (configured C).run (L.length + p + 3) s = .next t ∧
      t.seq.state = .done ∧
      t.res = { s.res with valid := true, ok := false, timeout := true, n := 0 } ∧
      t.chipReady = s.chipReady ∧
      t.port.calls = s.port.calls ++ [.reset] ++ transactionWrites C.cmdTab L ++ polls.map .avail ∧
      t.session = s.session

/-- R279: with no poll limit the wait goes on as long as the environment offers too few bytes, every poll counted,
busy and with no result. -/
def Obligations.WithoutALimitTheWaitGoesOn : Prop :=
  ∀ (C : Config) (s : State) (polls more : List Nat), C.pollLimit = none → s.inputs = [] → s.seq.state = .wait →
    s.env.avail = polls ++ more → (∀ a ∈ polls, a < 4 * (s.seq.n + 1)) →
    ∃ t, (configured C).run polls.length s = .next t ∧ t.seq = { s.seq with polls := s.seq.polls + polls.length } ∧
      t.res = s.res ∧ t.chipReady = s.chipReady ∧ t.port.calls = s.port.calls ++ polls.map .avail

/-! ### The status decoder -/

/-- R191 to R200: one bit, one condition, reported when the bit is 1, forcing a reboot as the table says. -/
def Obligations.StatusBitsReportTheirConditions : Prop :=
  ∀ (d : Half) (c : Condition) (n : Nat) (forces : Bool),
    (c, n, forces) ∈ ([(.internalConnectionError, 0, false), (.operationModeChanged, 1, true),
      (.powerDownModeActive, 2, true), (.nonVolatileMemoryError, 3, true), (.voltageLevelFailure, 4, true),
      (.temperatureSignalPathSaturated, 5, false), (.signalPathSaturated, 6, false), (.clockError, 7, true),
      (.digitalBlockErrorType2, 8, true), (.digitalBlockErrorType1, 9, true)] : List (Condition × Nat × Bool)) →
    (c ∈ (statusDecode d).conditions ↔ d.toNat.testBit n = true) ∧
    (forces = true → d.toNat.testBit n = true → (statusDecode d).usable = false) ∧
    (forces = false → (statusDecode d).usable = (statusDecode (d ^^^ BitVec.twoPow 16 n)).usable)

/-- R202 (with R203): usable exactly if no reboot-forcing condition is reported, which is the mask test; R204: bits
15 to 10 enter neither part. -/
def Obligations.UsableIffNoRebootForcingCondition : Prop :=
  ∀ d : Half,
    ((statusDecode d).usable = true ↔ ∀ c ∈ (statusDecode d).conditions, forcesReboot c = false) ∧
    ((statusDecode d).usable = true ↔ d &&& 0x039E = 0) ∧
    (needsReboot d = true ↔ ¬ (statusDecode d).usable = true) ∧
    (∀ e : Half, d &&& 0x03FF = e &&& 0x03FF → statusDecode d = statusDecode e)

/-! ### The host -/

/-- R219, R228: the conversion is exact, unsigned, from 0 to below 360, and its numerator fits 23 bits. -/
def Obligations.DegreesAreExactAndUnsigned : Prop :=
  (∀ d : Half, degrees d * 16384 = (d.toNat : Rat) * 90 ∧ 0 ≤ degrees d ∧ degrees d ≤ 5898150 / 16384 ∧
    d.toNat * 90 < 2 ^ 23) ∧
  (∀ d e : Half, degrees d < degrees e ↔ d.toNat < e.toNat) ∧
  degrees 0x4000 = 90 ∧ degrees 0 = 0

/-- R212, R224: setup begins in any session state, at PoweringUp; nothing of the block changes. -/
def Obligations.SetupBeginsFromAnySessionState : Prop :=
  ∀ (s : State) (rest : List HostOp), s.inputs = [] → s.seq.state = .idle ∨ s.seq.state = .done →
    s.session.phase = .idle → s.session.pending = .setup :: rest →
    step s = .next { s with session := { s.session with state := .poweringUp, phase := .configure, pending := rest } }

/-- R212, R227: `TConfigure` is called once; if it fails, Faulted with the cause "communication error". -/
def Obligations.SetupConfiguresTheTransport : Prop :=
  ∀ (s : State) (ok : Bool) (more : List Bool), s.inputs = [] → s.seq.state = .idle ∨ s.seq.state = .done →
    s.session.phase = .configure → s.env.configure = ok :: more →
    step s = .next { s with
      port := { s.port with calls := s.port.calls ++ [.configure machineConfig.bus ok] }
      env := { s.env with configure := more }
      session := if ok = true then { s.session with phase := .setMode }
        else { s.session with state := .faulted, phase := .idle, result := some (.setupFailed .communicationError) } }

/-- R213: SET_MODE is sent by a bare write, outside any transaction: no TReset, no flush, no read. -/
def Obligations.SetupSendsSetModeByABareWrite : Prop :=
  ∀ s : State, s.inputs = [] → s.seq.state = .idle ∨ s.seq.state = .done → s.session.phase = .setMode →
    step s = .next { s with
      port := { s.port with calls := s.port.calls ++ [.write (bytesOfWord (cmdWord machineConfig.cmdTab .setMode))] }
      session := { s.session with state := .configuringMode, phase := .startSetup } }

/-- R214: the setup transaction of five commands is started and always accepted. -/
def Obligations.SetupStartsItsTransaction : Prop :=
  ∀ s : State, s.inputs = [] → s.seq.state = .idle ∨ s.seq.state = .done → s.session.phase = .startSetup →
    step s = .next { s with
      seq := { s.seq with
        state := .reset, n := 5, k := 0, polls := 0
        cmds := [.readStatus, .readStatus, .readStatus, .readId, .setAngleMode] ++ s.seq.cmds.drop 5 }
      res := { s.res with valid := false }
      session := { s.session with state := .awaitingReady, phase := .awaitSetup } }

/-- R215, R216: the four tests in order, Ready if all hold, else Faulted with the cause of the first that fails;
the block, the transport and the angles do not change. -/
def Obligations.SetupVerdictIsTheFirstFailingTest : Prop :=
  ∀ s : State, s.inputs = [] → s.seq.state = .done → s.session.phase = .awaitSetup →
    let id := (frameAt s.res 3).data.extractLsb' 0 8
    let fault := (frameAt s.res 2).data &&& 0x039E
    let fails := fun c => step s = .next { s with
      session := { s.session with state := .faulted, phase := .idle, result := some (.setupFailed c) } }
    (s.res.ok = true → s.chipReady = true → id = 0xC1 → fault = 0 →
      step s = .next { s with session := { s.session with state := .ready, phase := .idle, result := some .setupOk } }) ∧
    (s.res.ok = false → fails .communicationError) ∧
    (s.res.ok = true → s.chipReady = false → fails .readinessTimeout) ∧
    (s.res.ok = true → s.chipReady = true → id ≠ 0xC1 → fails .identityMismatch) ∧
    (s.res.ok = true → s.chipReady = true → id = 0xC1 → fault ≠ 0 → fails .faultBitsSet)

/-- R218 (start of the transaction) and R225: refreshState starts its transaction in Ready only; elsewhere it does
nothing. -/
def Obligations.RefreshStartsInReadyOnly : Prop :=
  ∀ (s : State) (rest : List HostOp), s.inputs = [] → s.seq.state = .idle ∨ s.seq.state = .done →
    s.session.phase = .idle → s.session.pending = .refreshState :: rest →
    (s.session.state = .ready → step s = .next { s with
      seq := { s.seq with
        state := .reset, n := 4, k := 0, polls := 0
        cmds := [.readAngleX, .readAngleY, .readAngleZ, .readStatus] ++ s.seq.cmds.drop 4 }
      res := { s.res with valid := false }
      session := { s.session with phase := .awaitRefresh, pending := rest } }) ∧
    (s.session.state ≠ .ready → step s = .next { s with
      session := { s.session with phase := .idle, pending := rest, result := some .refreshIgnored } })

/-- R218, R220, R221: at the end of a refresh the three angles are written if the transaction succeeded, CHIP_READY
not tested, and none is written if it failed. The session leaves its state only under
FAULT_ON_STEADY_STATUS = true with a status that is not usable, with the cause "fault bits set". -/
def Obligations.RefreshWritesAnglesOnSuccessOnly : Prop :=
  ∀ (C : Config) (s : State), s.inputs = [] → s.seq.state = .done → s.session.phase = .awaitRefresh →
    let d := (frameAt s.res 3).data
    (s.res.ok = true → stepIn C s = .next { s with session := { s.session with
      angleX := degrees (frameAt s.res 0).data
      angleY := degrees (frameAt s.res 1).data
      angleZ := degrees (frameAt s.res 2).data
      state := if C.faultOnSteadyStatus = true ∧ d &&& 0x039E ≠ 0 then .faulted else s.session.state
      phase := .idle
      result := some (.refreshed (statusDecode d)
        (if C.faultOnSteadyStatus = true ∧ d &&& 0x039E ≠ 0 then some .faultBitsSet else none)) } }) ∧
    (s.res.ok = false → stepIn C s = .next { s with
      session := { s.session with phase := .idle, result := some .refreshFailed } })

/-- R222, R223: CheckChipsetID starts its one-command transaction in any session state, and at the end returns the
conjunction of the three tests; neither the session state nor the angles change. That it runs also where `TConfigure`
has not succeeded is the model's choice (DESIGN CHOICE, log 29). -/
def Obligations.IdentityCheckIsTheConjunctionOfThreeTests : Prop :=
  (∀ (s : State) (rest : List HostOp), s.inputs = [] → s.seq.state = .idle ∨ s.seq.state = .done →
    s.session.phase = .idle → s.session.pending = .checkChipsetID :: rest →
    step s = .next { s with
      seq := { s.seq with state := .reset, n := 1, k := 0, polls := 0, cmds := .readId :: s.seq.cmds.drop 1 }
      res := { s.res with valid := false }
      session := { s.session with phase := .awaitIdentity, pending := rest } }) ∧
  (∀ s : State, s.inputs = [] → s.seq.state = .done → s.session.phase = .awaitIdentity →
    ∃ pass, step s = .next { s with session := { s.session with phase := .idle, result := some (.identity pass) } } ∧
      (pass = true ↔ s.res.ok = true ∧ s.chipReady = true ∧ (frameAt s.res 0).data.extractLsb' 0 8 = 0xC1))
end

