-- ==== Sys2Proof/Laws/Crc8.lean ====
section
/-! SUPPORT. The CRC-8 engine and the codec: the step is linear over XOR, the accumulator depends on the message
bits only, and a frame's word is the word it was taken from. -/

namespace Sys2Proof.Machine

/-- The step as one choice: the bit fed back is the accumulator's top bit XOR the input bit (R93, R97). -/
theorem crcStep_eq (acc : Byte) (x : Bool) :
    crcStep acc x = if acc.msb ^^ x then acc <<< 1 ^^^ 0x1D else acc <<< 1 := by
  revert acc x; decide +kernel

/-- The step is linear over XOR in the accumulator and the input bit together (R98). -/
theorem crcStep_xor (a b : Byte) (x y : Bool) : crcStep (a ^^^ b) (x ^^ y) = crcStep a x ^^^ crcStep b y := by
  simp only [crcStep_eq, BitVec.msb_xor]
  cases a.msb <;> cases b.msb <;> cases x <;> cases y <;>
    (simp only [Bool.xor_false, Bool.xor_true, Bool.not_true, Bool.not_false, if_true, if_false, Bool.false_eq_true]
     ext i
     simp only [BitVec.getElem_xor, BitVec.getElem_shiftLeft]
     grind)

/-- Two words with the same upper 24 bits give the same message bits (R92, R95). -/
theorem messageBits_congr {u v : Word} (h : ∀ i, 8 ≤ i → i < 32 → u.getLsbD i = v.getLsbD i) :
    messageBits u = messageBits v := by
  unfold messageBits
  refine List.map_congr_left fun j hj => h _ ?_ ?_ <;> simp at hj <;> omega

/-- `crc8` depends on the message bits only. -/
theorem crc8_congr {u v : Word} (h : ∀ i, 8 ≤ i → i < 32 → u.getLsbD i = v.getLsbD i) : crc8 u = crc8 v := by
  unfold crc8 crcAcc; rw [messageBits_congr h]

/-- The first five fields of a frame lose nothing (R12). -/
@[simp] theorem frameWord_decodeFrame (w : Word) : frameWord (decodeFrame w) = w := by
  unfold frameWord decodeFrame assemble rdField addrField rsField dataField crcField
  refine BitVec.eq_of_getLsbD_eq fun i hi => ?_
  simp only [BitVec.getLsbD_append, BitVec.getLsbD_extractLsb']
  grind

/-- A decoded frame carries the flag of its own word (R112, R114). -/
@[simp] theorem decodeFrame_crcError (w : Word) : (decodeFrame w).crcError = crcErrorOf w := rfl

end Sys2Proof.Machine
end

