-- ==== Sys2Proof/Laws/Entries.lean ====
section
/-! SUPPORT. The indexed state elements: read after write, and what a write leaves alone. -/

namespace Sys2Proof.Machine

variable {α : Type} (free : Nat → α) (l : List α) (i j : Nat) (v : α)

theorem readEntry_eq : readEntry free l i = l[i]?.getD (free i) := by simp [readEntry, List.getD]

theorem writeEntry_of_lt (h : i < l.length) : writeEntry free l i v = l.set i v := by simp [writeEntry, h]

/-- The entry written where the list ends is appended. -/
theorem writeEntry_at_length : writeEntry free l l.length v = l ++ [v] := by simp [writeEntry]

theorem length_writeEntry : (writeEntry free l i v).length = max l.length (i + 1) := by
  unfold writeEntry
  split
  · rw [List.length_set]; omega
  · simp; omega

/-- Entry j of the list after a write of entry i, where i is not yet listed. -/
theorem getElem?_writeEntry_of_ge (h : l.length ≤ i) :
    (writeEntry free l i v)[j]? =
      if j < l.length then l[j]? else if j < i then some (free j) else if j = i then some v else none := by
  have hi : ¬ i < l.length := by omega
  simp only [writeEntry, hi, if_false, List.append_assoc, List.getElem?_append, List.length_map, List.length_range']
  split
  · rfl
  · rename_i hj
    by_cases hji : j < i
    · have h1 : j - l.length < i - l.length := by omega
      have h2 : l.length + (j - l.length) = j := by omega
      simp [h1, hji, h2]
    · have h1 : ¬ j - l.length < i - l.length := by omega
      by_cases hje : j = i
      · subst hje; simp
      · have h2 : j - l.length - (i - l.length) ≠ 0 := by omega
        simp [h1, hji, hje, h2]

/-- Reading the entry written gives the value written. -/
@[simp] theorem readEntry_writeEntry_same : readEntry free (writeEntry free l i v) i = v := by
  rw [readEntry_eq]
  by_cases h : i < l.length
  · simp [writeEntry_of_lt, h]
  · simp [getElem?_writeEntry_of_ge, h, Nat.not_lt.mp h]

/-- Every other entry reads as before, the ones never written too. -/
theorem readEntry_writeEntry_ne (h : j ≠ i) : readEntry free (writeEntry free l i v) j = readEntry free l j := by
  rw [readEntry_eq, readEntry_eq]
  by_cases hi : i < l.length
  · simp [writeEntry_of_lt, hi, Ne.symm h]
  · rw [getElem?_writeEntry_of_ge _ _ _ _ _ (Nat.not_lt.mp hi)]
    by_cases hj : j < l.length
    · simp [hj]
    · by_cases hji : j < i <;> simp [hj, hji, h]

/-- What a write puts in the list: the value, or what was there, or an entry's free value. -/
theorem mem_writeEntry {x : α} (h : x ∈ writeEntry free l i v) : x = v ∨ x ∈ l ∨ ∃ k, x = free k := by
  unfold writeEntry at h
  split at h
  · rcases List.mem_or_eq_of_mem_set h with h | h
    · exact .inr (.inl h)
    · exact .inl h
  · simp only [List.mem_append, List.mem_map, List.mem_singleton] at h
    rcases h with (h | ⟨k, -, rfl⟩) | h
    · exact .inr (.inl h)
    · exact .inr (.inr ⟨k, rfl⟩)
    · exact .inl h

/-- A written entry is in the list. -/
theorem readEntry_mem (h : i < l.length) : readEntry free l i ∈ l := by
  simp [readEntry, h]

end Sys2Proof.Machine
end

