-- ==== Sys2Proof/Laws/State.lean ====
section
/-! SUPPORT. One lemma per field per update of State, true by rfl, so that no later proof unfolds an update. -/

namespace Sys2Proof.Machine

/-! ### setAcc -/

@[simp] theorem State.setAcc_acc (s : State) (v : Byte) : (s.setAcc v).acc = v := rfl
@[simp] theorem State.setAcc_chipReady (s : State) (v : Byte) : (s.setAcc v).chipReady = s.chipReady := rfl
@[simp] theorem State.setAcc_seq (s : State) (v : Byte) : (s.setAcc v).seq = s.seq := rfl
@[simp] theorem State.setAcc_res (s : State) (v : Byte) : (s.setAcc v).res = s.res := rfl
@[simp] theorem State.setAcc_session (s : State) (v : Byte) : (s.setAcc v).session = s.session := rfl
@[simp] theorem State.setAcc_port (s : State) (v : Byte) : (s.setAcc v).port = s.port := rfl
@[simp] theorem State.setAcc_env (s : State) (v : Byte) : (s.setAcc v).env = s.env := rfl
@[simp] theorem State.setAcc_inputs (s : State) (v : Byte) : (s.setAcc v).inputs = s.inputs := rfl

/-! ### setChipReady -/

@[simp] theorem State.setChipReady_acc (s : State) (v : Bool) : (s.setChipReady v).acc = s.acc := rfl
@[simp] theorem State.setChipReady_chipReady (s : State) (v : Bool) : (s.setChipReady v).chipReady = v := rfl
@[simp] theorem State.setChipReady_seq (s : State) (v : Bool) : (s.setChipReady v).seq = s.seq := rfl
@[simp] theorem State.setChipReady_res (s : State) (v : Bool) : (s.setChipReady v).res = s.res := rfl
@[simp] theorem State.setChipReady_session (s : State) (v : Bool) : (s.setChipReady v).session = s.session := rfl
@[simp] theorem State.setChipReady_port (s : State) (v : Bool) : (s.setChipReady v).port = s.port := rfl
@[simp] theorem State.setChipReady_env (s : State) (v : Bool) : (s.setChipReady v).env = s.env := rfl
@[simp] theorem State.setChipReady_inputs (s : State) (v : Bool) : (s.setChipReady v).inputs = s.inputs := rfl

/-! ### setSeq -/

@[simp] theorem State.setSeq_acc (s : State) (v : Sequencer) : (s.setSeq v).acc = s.acc := rfl
@[simp] theorem State.setSeq_chipReady (s : State) (v : Sequencer) : (s.setSeq v).chipReady = s.chipReady := rfl
@[simp] theorem State.setSeq_seq (s : State) (v : Sequencer) : (s.setSeq v).seq = v := rfl
@[simp] theorem State.setSeq_res (s : State) (v : Sequencer) : (s.setSeq v).res = s.res := rfl
@[simp] theorem State.setSeq_session (s : State) (v : Sequencer) : (s.setSeq v).session = s.session := rfl
@[simp] theorem State.setSeq_port (s : State) (v : Sequencer) : (s.setSeq v).port = s.port := rfl
@[simp] theorem State.setSeq_env (s : State) (v : Sequencer) : (s.setSeq v).env = s.env := rfl
@[simp] theorem State.setSeq_inputs (s : State) (v : Sequencer) : (s.setSeq v).inputs = s.inputs := rfl

/-! ### setRes -/

@[simp] theorem State.setRes_acc (s : State) (v : TransactionResult) : (s.setRes v).acc = s.acc := rfl
@[simp] theorem State.setRes_chipReady (s : State) (v : TransactionResult) : (s.setRes v).chipReady = s.chipReady := rfl
@[simp] theorem State.setRes_seq (s : State) (v : TransactionResult) : (s.setRes v).seq = s.seq := rfl
@[simp] theorem State.setRes_res (s : State) (v : TransactionResult) : (s.setRes v).res = v := rfl
@[simp] theorem State.setRes_session (s : State) (v : TransactionResult) : (s.setRes v).session = s.session := rfl
@[simp] theorem State.setRes_port (s : State) (v : TransactionResult) : (s.setRes v).port = s.port := rfl
@[simp] theorem State.setRes_env (s : State) (v : TransactionResult) : (s.setRes v).env = s.env := rfl
@[simp] theorem State.setRes_inputs (s : State) (v : TransactionResult) : (s.setRes v).inputs = s.inputs := rfl

/-! ### setSession -/

@[simp] theorem State.setSession_acc (s : State) (v : Session) : (s.setSession v).acc = s.acc := rfl
@[simp] theorem State.setSession_chipReady (s : State) (v : Session) : (s.setSession v).chipReady = s.chipReady := rfl
@[simp] theorem State.setSession_seq (s : State) (v : Session) : (s.setSession v).seq = s.seq := rfl
@[simp] theorem State.setSession_res (s : State) (v : Session) : (s.setSession v).res = s.res := rfl
@[simp] theorem State.setSession_session (s : State) (v : Session) : (s.setSession v).session = v := rfl
@[simp] theorem State.setSession_port (s : State) (v : Session) : (s.setSession v).port = s.port := rfl
@[simp] theorem State.setSession_env (s : State) (v : Session) : (s.setSession v).env = s.env := rfl
@[simp] theorem State.setSession_inputs (s : State) (v : Session) : (s.setSession v).inputs = s.inputs := rfl

/-! ### setPort -/

@[simp] theorem State.setPort_acc (s : State) (v : Port) : (s.setPort v).acc = s.acc := rfl
@[simp] theorem State.setPort_chipReady (s : State) (v : Port) : (s.setPort v).chipReady = s.chipReady := rfl
@[simp] theorem State.setPort_seq (s : State) (v : Port) : (s.setPort v).seq = s.seq := rfl
@[simp] theorem State.setPort_res (s : State) (v : Port) : (s.setPort v).res = s.res := rfl
@[simp] theorem State.setPort_session (s : State) (v : Port) : (s.setPort v).session = s.session := rfl
@[simp] theorem State.setPort_port (s : State) (v : Port) : (s.setPort v).port = v := rfl
@[simp] theorem State.setPort_env (s : State) (v : Port) : (s.setPort v).env = s.env := rfl
@[simp] theorem State.setPort_inputs (s : State) (v : Port) : (s.setPort v).inputs = s.inputs := rfl

/-! ### setEnv -/

@[simp] theorem State.setEnv_acc (s : State) (v : Environment) : (s.setEnv v).acc = s.acc := rfl
@[simp] theorem State.setEnv_chipReady (s : State) (v : Environment) : (s.setEnv v).chipReady = s.chipReady := rfl
@[simp] theorem State.setEnv_seq (s : State) (v : Environment) : (s.setEnv v).seq = s.seq := rfl
@[simp] theorem State.setEnv_res (s : State) (v : Environment) : (s.setEnv v).res = s.res := rfl
@[simp] theorem State.setEnv_session (s : State) (v : Environment) : (s.setEnv v).session = s.session := rfl
@[simp] theorem State.setEnv_port (s : State) (v : Environment) : (s.setEnv v).port = s.port := rfl
@[simp] theorem State.setEnv_env (s : State) (v : Environment) : (s.setEnv v).env = v := rfl
@[simp] theorem State.setEnv_inputs (s : State) (v : Environment) : (s.setEnv v).inputs = s.inputs := rfl

/-! ### setInputs -/

@[simp] theorem State.setInputs_acc (s : State) (v : List Input) : (s.setInputs v).acc = s.acc := rfl
@[simp] theorem State.setInputs_chipReady (s : State) (v : List Input) : (s.setInputs v).chipReady = s.chipReady := rfl
@[simp] theorem State.setInputs_seq (s : State) (v : List Input) : (s.setInputs v).seq = s.seq := rfl
@[simp] theorem State.setInputs_res (s : State) (v : List Input) : (s.setInputs v).res = s.res := rfl
@[simp] theorem State.setInputs_session (s : State) (v : List Input) : (s.setInputs v).session = s.session := rfl
@[simp] theorem State.setInputs_port (s : State) (v : List Input) : (s.setInputs v).port = s.port := rfl
@[simp] theorem State.setInputs_env (s : State) (v : List Input) : (s.setInputs v).env = s.env := rfl
@[simp] theorem State.setInputs_inputs (s : State) (v : List Input) : (s.setInputs v).inputs = v := rfl

/-! ### Reset -/

@[simp] theorem State.reset_seq : State.reset.seq = Sequencer.reset := rfl
@[simp] theorem State.reset_res : State.reset.res = TransactionResult.reset := rfl
@[simp] theorem State.reset_session : State.reset.session = Session.reset := rfl
@[simp] theorem State.reset_chipReady : State.reset.chipReady = false := rfl
@[simp] theorem State.reset_inputs : State.reset.inputs = [] := rfl

end Sys2Proof.Machine
end

