-- ==== Sys2Proof/Laws/Ops.lean ====
section
/-! SUPPORT. What each shared operation can do, said once. -/

namespace Sys2Proof.Machine

/-! ### The configuration -/

/-- `N_MAX` is at least 5 whatever the open value (R6). -/
theorem five_le_nMax : 5 ≤ machineConfig.nMax := by simp [machineConfig]

/-- The poll limit is not 0 whatever the open value (R156). -/
theorem pollLimit_ne_zero : machineConfig.pollLimit ≠ some 0 := by
  unfold machineConfig
  cases Config.pollLimitLessOne <;> simp

/-- The machine's configuration is one the spec allows (R67, R6). -/
theorem machineConfig_wellFormed : machineConfig.wellFormed = true := by
  have h : machineConfig.cmdTab.checksummed = true := by decide +kernel
  simp [Config.wellFormed, h, five_le_nMax, pollLimit_ne_zero]

/-! ### Arrivals -/

@[simp] theorem length_arrive (m : Nat) (e : Environment) : (arrive m e).1.length = m := by
  induction m generalizing e with
  | zero => rfl
  | succ m ih => simp [arrive, ih]

/-- Arrivals take scripted bytes first, in order. -/
theorem arrive_scripted (m : Nat) (e : Environment) (h : m ≤ e.incoming.length) :
    arrive m e = (e.incoming.take m, { e with incoming := e.incoming.drop m }) := by
  induction m generalizing e with
  | zero => simp [arrive]
  | succ m ih =>
    obtain ⟨a, inc, c, d⟩ := e
    cases inc with
    | nil => simp at h
    | cons b bs =>
      have := ih ⟨a, bs, c, d⟩ (by simpa using h)
      simp [arrive, nextByte, this]

/-! ### The transport primitives -/

@[simp] theorem record_port (c : Call) (s : State) : (record c s).port = { s.port with calls := s.port.calls ++ [c] } := rfl
@[simp] theorem record_seq (c : Call) (s : State) : (record c s).seq = s.seq := rfl
@[simp] theorem record_res (c : Call) (s : State) : (record c s).res = s.res := rfl
@[simp] theorem record_session (c : Call) (s : State) : (record c s).session = s.session := rfl
@[simp] theorem record_chipReady (c : Call) (s : State) : (record c s).chipReady = s.chipReady := rfl
@[simp] theorem record_acc (c : Call) (s : State) : (record c s).acc = s.acc := rfl
@[simp] theorem record_env (c : Call) (s : State) : (record c s).env = s.env := rfl
@[simp] theorem record_inputs (c : Call) (s : State) : (record c s).inputs = s.inputs := rfl

@[simp] theorem tWrite_eq (b : List Byte) (s : State) : tWrite b s = record (.write b) s := rfl

@[simp] theorem tReset_port (s : State) : (tReset s).port = { calls := s.port.calls ++ [.reset], received := [] } := rfl
@[simp] theorem tReset_seq (s : State) : (tReset s).seq = s.seq := rfl
@[simp] theorem tReset_res (s : State) : (tReset s).res = s.res := rfl
@[simp] theorem tReset_session (s : State) : (tReset s).session = s.session := rfl
@[simp] theorem tReset_chipReady (s : State) : (tReset s).chipReady = s.chipReady := rfl
@[simp] theorem tReset_inputs (s : State) : (tReset s).inputs = s.inputs := rfl
@[simp] theorem tReset_env (s : State) : (tReset s).env = s.env := rfl

@[simp] theorem tAvail_seq (s : State) : (tAvail s).2.seq = s.seq := rfl
@[simp] theorem tAvail_res (s : State) : (tAvail s).2.res = s.res := rfl
@[simp] theorem tAvail_session (s : State) : (tAvail s).2.session = s.session := rfl
@[simp] theorem tAvail_chipReady (s : State) : (tAvail s).2.chipReady = s.chipReady := rfl
@[simp] theorem tAvail_acc (s : State) : (tAvail s).2.acc = s.acc := rfl
@[simp] theorem tAvail_inputs (s : State) : (tAvail s).2.inputs = s.inputs := rfl

/-- The call `TAvail` makes is recorded with its answer. -/
@[simp] theorem tAvail_calls (s : State) : (tAvail s).2.port.calls = s.port.calls ++ [.avail (tAvail s).1] := rfl

/-- When `TAvail` answers a, at least a bytes are there (log 7). -/
theorem le_length_tAvail (s : State) : (tAvail s).1 ≤ (tAvail s).2.port.received.length := by
  simp [tAvail]; omega

/-- Bytes received stay, in order, and later ones come after them (R44, R48). -/
theorem tAvail_received (s : State) : ∃ bs, (tAvail s).2.port.received = s.port.received ++ bs := ⟨_, rfl⟩

/-- `TRead` gives exactly n bytes, the oldest, and removes them (R44); it blocks exactly when fewer are there. -/
theorem tRead_eq_none (n : Nat) (s : State) : tRead n s = none ↔ s.port.received.length < n := by
  unfold tRead; split <;> simp <;> omega

theorem tRead_of_le {n : Nat} {s : State} (h : n ≤ s.port.received.length) :
    tRead n s = some (s.port.received.take n,
      s.setPort { calls := s.port.calls ++ [.read (s.port.received.take n)], received := s.port.received.drop n }) := by
  simp [tRead, h]

@[simp] theorem tConfigure_seq (b : BusParams) (s : State) : (tConfigure b s).2.seq = s.seq := rfl
@[simp] theorem tConfigure_res (b : BusParams) (s : State) : (tConfigure b s).2.res = s.res := rfl
@[simp] theorem tConfigure_session (b : BusParams) (s : State) : (tConfigure b s).2.session = s.session := rfl
@[simp] theorem tConfigure_chipReady (b : BusParams) (s : State) : (tConfigure b s).2.chipReady = s.chipReady := rfl
@[simp] theorem tConfigure_received (b : BusParams) (s : State) :
    (tConfigure b s).2.port.received = s.port.received := rfl

/-! ### Selectors and starts -/

@[simp] theorem commandOfSelector_selectorOf {i : Instr} (h : i.listable = true) :
    commandOfSelector (selectorOf i) = some i := by
  cases i <;> first | rfl | cases h

/-- A selector that names a command names one that may stand in a list (R68). -/
theorem commandOfSelector_listable {x : Selector} {i : Instr} (h : commandOfSelector x = some i) :
    i.listable = true := by
  have all : ∀ c ∈ commands, c.listable = true := by decide
  exact all i (List.mem_of_getElem? h)

/-- What an unwritten selector register holds is one of the seven. -/
theorem commandOfFin_listable (x : Fin 7) : (commandOfFin x).listable = true := by
  revert x; decide

/-- The reserved selector names no command (R68). -/
@[simp] theorem commandOfSelector_seven : commandOfSelector 7 = none := rfl

/-- A list written by selectors reads back. -/
theorem commandsOfSelectors_map {L : List Instr} (h : ∀ c ∈ L, c.listable = true) :
    commandsOfSelectors (L.map selectorOf) = some L := by
  induction L with
  | nil => rfl
  | cons c L ih =>
    have hc := commandOfSelector_selectorOf (h c (by simp))
    have hL := ih fun d hd => h d (by simp [hd])
    simp [commandsOfSelectors, hc, hL]

/-- A list that reads as commands has as many, each of the seven. -/
theorem commandsOfSelectors_spec {L : List Selector} {cs : List Instr} (h : commandsOfSelectors L = some cs) :
    cs.length = L.length ∧ ∀ c ∈ cs, c.listable = true := by
  induction L generalizing cs with
  | nil => simp [commandsOfSelectors] at h; subst h; simp
  | cons x xs ih =>
    simp only [commandsOfSelectors] at h
    split at h
    · rename_i c ds hc hds
      simp only [Option.some.injEq] at h
      subst h
      obtain ⟨hl, ha⟩ := ih hds
      exact ⟨by simp [hl], by simpa using ⟨commandOfSelector_listable hc, ha⟩⟩
    · simp at h

/-- An accepted start (R151), and nothing else, gives a state. -/
theorem presentStart_eq_some {C : Config} {L : List Selector} {s t : State} :
    presentStart C L s = some t ↔
      busy s = false ∧ L.length ≤ C.nMax ∧ ∃ cs, commandsOfSelectors L = some cs ∧ t = captureStart cs s := by
  unfold presentStart
  cases hb : busy s <;> by_cases hl : L.length ≤ C.nMax <;> simp [hl, eq_comm]

@[simp] theorem captureStart_seq (L : List Instr) (s : State) : (captureStart L s).seq =
    { s.seq with state := .reset, n := L.length, cmds := L ++ s.seq.cmds.drop L.length, k := 0, polls := 0 } := rfl
@[simp] theorem captureStart_res (L : List Instr) (s : State) : (captureStart L s).res = { s.res with valid := false } := rfl
@[simp] theorem captureStart_session (L : List Instr) (s : State) : (captureStart L s).session = s.session := rfl
@[simp] theorem captureStart_port (L : List Instr) (s : State) : (captureStart L s).port = s.port := rfl
@[simp] theorem captureStart_chipReady (L : List Instr) (s : State) : (captureStart L s).chipReady = s.chipReady := rfl

/-- Busy is neither IDLE nor DONE. -/
theorem busy_eq_false {s : State} : busy s = false ↔ s.seq.state = .idle ∨ s.seq.state = .done := by
  unfold busy
  cases s.seq.state <;> simp

end Sys2Proof.Machine
end

