-- ==== Sys2Proof/Laws/PerInstr.lean ====
section
/-! SUPPORT. Statements made per instruction: every command word of the default table carries its own checksum
(R67), is sent as four bytes, and is decoded with a frame's field positions (R62, R120). -/

namespace Sys2Proof.Laws.CommandWord

/-- The word of an instruction under the default table is a frame without CRC error, four bytes long. -/
def Statement (i : Instr) : Prop :=
  Machine.crcErrorOf (cmdWord defaultTable i) = false ∧ (encode defaultTable i).length = 4 ∧
    (Machine.decodeFrame (cmdWord defaultTable i)).addr = Machine.requestAddr defaultTable i

theorem setMode : Statement .setMode := ⟨by decide +kernel, rfl, rfl⟩
theorem setAngleMode : Statement .setAngleMode := ⟨by decide +kernel, rfl, rfl⟩
theorem readStatus : Statement .readStatus := ⟨by decide +kernel, rfl, rfl⟩
theorem readId : Statement .readId := ⟨by decide +kernel, rfl, rfl⟩
theorem readAngleX : Statement .readAngleX := ⟨by decide +kernel, rfl, rfl⟩
theorem readAngleY : Statement .readAngleY := ⟨by decide +kernel, rfl, rfl⟩
theorem readAngleZ : Statement .readAngleZ := ⟨by decide +kernel, rfl, rfl⟩
theorem flush : Statement .flush := ⟨by decide +kernel, rfl, rfl⟩

end Sys2Proof.Laws.CommandWord
end

