-- ==== Sys2Proof/Laws/Session.lean ====
section
/-! SUPPORT. What the host's actions can do to the block: nothing, or an accepted start. -/

namespace Sys2Proof.Machine

/-- What two states share when only the host and the transport's history may differ: the block, and the bytes
received. -/
def SameBlock (s t : State) : Prop :=
  t.acc = s.acc ∧ t.chipReady = s.chipReady ∧ t.seq = s.seq ∧ t.res = s.res ∧ t.port.received = s.port.received ∧
    t.inputs = s.inputs

/-- The block of t is that of s after an accepted start (R151). -/
def StartedFrom (C : Config) (s t : State) : Prop :=
  busy s = false ∧ ∃ cs : List Instr, cs.length ≤ C.nMax ∧ (∀ c ∈ cs, c.listable = true) ∧
    SameBlock (captureStart cs s) t

theorem SameBlock.refl (s : State) : SameBlock s s := ⟨rfl, rfl, rfl, rfl, rfl, rfl⟩

/-- A change of the session leaves the block alone. -/
@[simp] theorem sameBlock_setSession (s t : State) (v : Session) : SameBlock s (t.setSession v) ↔ SameBlock s t := Iff.rfl

/-- So does a change of the session before it. -/
@[simp] theorem sameBlock_of_setSession (s t : State) (v : Session) : SameBlock (s.setSession v) t ↔ SameBlock s t := Iff.rfl

@[simp] theorem startedFrom_of_setSession (C : Config) (s t : State) (v : Session) :
    StartedFrom C (s.setSession v) t ↔ StartedFrom C s t := Iff.rfl

@[simp] theorem sameBlock_returned (s t : State) (r : HostResult) : SameBlock s (returned r t) ↔ SameBlock s t := Iff.rfl

@[simp] theorem sameBlock_faultSession (s t : State) (c : Cause) : SameBlock s (faultSession c t) ↔ SameBlock s t := Iff.rfl

@[simp] theorem startedFrom_setSession (C : Config) (s t : State) (v : Session) :
    StartedFrom C s (t.setSession v) ↔ StartedFrom C s t := Iff.rfl

/-- What the host's presenting a list does. -/
theorem hostStart_cases (C : Config) (L : List Instr) (s : State) :
    hostStart C L s = s ∨
      ∃ cs : List Instr, busy s = false ∧ cs.length ≤ C.nMax ∧ (∀ c ∈ cs, c.listable = true) ∧
        hostStart C L s = captureStart cs s := by
  unfold hostStart
  cases h : presentStart C (L.map selectorOf) s with
  | none => exact .inl rfl
  | some t =>
    obtain ⟨hb, hl, cs, hcs, rfl⟩ := presentStart_eq_some.mp h
    obtain ⟨h1, h2⟩ := commandsOfSelectors_spec hcs
    exact .inr ⟨cs, hb, by omega, h2, rfl⟩

/-- A list of commands within the bound is captured when the block is not busy. -/
theorem hostStart_accepted {C : Config} {L : List Instr} {s : State} (hb : busy s = false)
    (hl : L.length ≤ C.nMax) (h : ∀ c ∈ L, c.listable = true) : hostStart C L s = captureStart L s := by
  have : presentStart C (L.map selectorOf) s = some (captureStart L s) :=
    presentStart_eq_some.mpr ⟨hb, by simpa using hl, L, commandsOfSelectors_map h, rfl⟩
  simp [hostStart, this]

theorem hostStart_block (C : Config) (L : List Instr) (s : State) :
    SameBlock s (hostStart C L s) ∨ StartedFrom C s (hostStart C L s) := by
  rcases hostStart_cases C L s with h | ⟨cs, hb, hl, hc, h⟩
  · rw [h]; exact .inl (SameBlock.refl s)
  · rw [h]; exact .inr ⟨hb, cs, hl, hc, SameBlock.refl _⟩

theorem beginOp_block (C : Config) (op : HostOp) (s : State) :
    SameBlock s (beginOp C op s) ∨ StartedFrom C s (beginOp C op s) := by
  cases op with
  | setup => exact .inl (SameBlock.refl s)
  | refreshState =>
    show SameBlock s (beginRefresh C s) ∨ StartedFrom C s (beginRefresh C s)
    unfold beginRefresh
    split
    · exact hostStart_block C refreshCommands s
    · exact .inl (SameBlock.refl s)
  | checkChipsetID => exact hostStart_block C identityCommands s

theorem takeRequest_block (C : Config) (s : State) :
    SameBlock s (takeRequest C s) ∨ StartedFrom C s (takeRequest C s) := by
  unfold takeRequest
  split
  · exact .inl (SameBlock.refl s)
  · rename_i op rest _
    exact beginOp_block C op (s.setSession { s.session with pending := rest })

theorem setupFinish_block (s : State) : SameBlock s (setupFinish s) := by
  unfold setupFinish
  split_ifs <;> exact SameBlock.refl s

theorem refreshFinish_block (C : Config) (s : State) : SameBlock s (refreshFinish C s) := by
  unfold refreshFinish
  split_ifs <;> exact SameBlock.refl s

theorem identityFinish_block (s : State) : SameBlock s (identityFinish s) := SameBlock.refl s

/-- The host's turn leaves the block as it is, or starts a transaction. -/
theorem hostStep_block (C : Config) (s : State) :
    SameBlock s (hostStep C s) ∨ StartedFrom C s (hostStep C s) := by
  have await : ∀ finish : State → State, (∀ s, SameBlock s (finish s)) →
      SameBlock s (awaitDone C finish s) ∨ StartedFrom C s (awaitDone C finish s) := by
    intro finish h
    unfold awaitDone
    split
    · exact .inl (h s)
    · exact takeRequest_block C s
  unfold hostStep
  cases s.session.phase with
  | idle => exact takeRequest_block C s
  | configure =>
    left
    show SameBlock s (setupConfigure C s)
    unfold setupConfigure
    dsimp only
    split_ifs <;> exact SameBlock.refl s
  | setMode => exact .inl (SameBlock.refl s)
  | startSetup => exact hostStart_block C setupCommands s
  | awaitSetup => exact await _ setupFinish_block
  | awaitRefresh => exact await _ (refreshFinish_block C)
  | awaitIdentity => exact await _ identityFinish_block

end Sys2Proof.Machine
end

