-- ==== Sys2Proof/Laws/Step.lean ====
section
/-! SUPPORT. What a step can do, said once: the inversion lemmas of the meanings, of the rows and of the step. -/

namespace Sys2Proof.Machine

/-- The host is free exactly if no operation of it runs (R210). -/
@[simp] theorem hostFree_iff {s : State} : hostFree s = true ↔ s.session.phase = .idle := by simp [hostFree]

/-! ### The meanings -/

/-- Everything a command can do. -/
theorem execCommand_cases (T : CmdTab) (c : Instr) (s : State) :
    (s.seq.state = .send ∧ s.seq.k < s.seq.n ∧ execCommand T c s = .next (transmit T c s)) ∨
    (s.seq.state = .check ∧ s.seq.k < s.seq.n ∧ execCommand T c s = .next (checkResponse T c s)) ∨
    ((s.seq.state = .send ∨ s.seq.state = .check → s.seq.n ≤ s.seq.k) ∧ execCommand T c s = .next s) := by
  unfold execCommand
  cases h : s.seq.state <;> by_cases hk : s.seq.k < s.seq.n <;> simp [hk] <;> omega

/-- Everything the flush can do. -/
theorem flushRow_cases (T : CmdTab) (s : State) :
    (s.seq.state = .flush ∧ flushRow T s =
      .next ((tWrite (encode T .flush) s).setSeq { s.seq with polls := 0, state := .wait })) ∨
    (s.seq.state ≠ .flush ∧ flushRow T s = .next s) := by
  unfold flushRow
  cases h : s.seq.state <;> simp

@[simp] theorem transmit_seq (T : CmdTab) (c : Instr) (s : State) : (transmit T c s).seq =
    { s.seq with k := s.seq.k + 1, state := if s.seq.k + 1 = s.seq.n then .flush else .send } := rfl
@[simp] theorem transmit_res (T : CmdTab) (c : Instr) (s : State) : (transmit T c s).res = s.res := rfl
@[simp] theorem transmit_session (T : CmdTab) (c : Instr) (s : State) : (transmit T c s).session = s.session := rfl
@[simp] theorem transmit_chipReady (T : CmdTab) (c : Instr) (s : State) : (transmit T c s).chipReady = s.chipReady := rfl
@[simp] theorem transmit_port (T : CmdTab) (c : Instr) (s : State) : (transmit T c s).port =
    { s.port with calls := s.port.calls ++ [.write (encode T c)] } := rfl
@[simp] theorem transmit_env (T : CmdTab) (c : Instr) (s : State) : (transmit T c s).env = s.env := rfl
@[simp] theorem transmit_inputs (T : CmdTab) (c : Instr) (s : State) : (transmit T c s).inputs = s.inputs := rfl

@[simp] theorem checkResponse_seq (T : CmdTab) (c : Instr) (s : State) : (checkResponse T c s).seq =
    { s.seq with k := s.seq.k + 1 } := rfl
@[simp] theorem checkResponse_session (T : CmdTab) (c : Instr) (s : State) : (checkResponse T c s).session = s.session := rfl
@[simp] theorem checkResponse_port (T : CmdTab) (c : Instr) (s : State) : (checkResponse T c s).port = s.port := rfl
@[simp] theorem checkResponse_env (T : CmdTab) (c : Instr) (s : State) : (checkResponse T c s).env = s.env := rfl
@[simp] theorem checkResponse_inputs (T : CmdTab) (c : Instr) (s : State) : (checkResponse T c s).inputs = s.inputs := rfl
@[simp] theorem checkResponse_chipReady (T : CmdTab) (c : Instr) (s : State) :
    (checkResponse T c s).chipReady = rsReady (decodeFrame (responseWord s.seq s.seq.k)) := rfl

@[simp] theorem checkResponse_res (T : CmdTab) (c : Instr) (s : State) : (checkResponse T c s).res =
    { valid := s.res.valid
      ok := s.res.ok && decide (verdict T (decodeFrame (responseWord s.seq s.seq.k)) c = .valid)
      timeout := s.res.timeout
      n := s.seq.k + 1
      frame := writeEntry freeFrame s.res.frame s.seq.k (decodeFrame (responseWord s.seq s.seq.k))
      req := writeEntry (fun j => commandOfFin (Config.freeReq j)) s.res.req s.seq.k c } := by
  by_cases h : verdict T (decodeFrame (responseWord s.seq s.seq.k)) c = .valid <;>
    simp [checkResponse, failTransaction, h]

/-- An arm of exec is the meaning under the machine's table. -/
theorem exec_eq_execIn (i : Instr) (s : State) : exec i s = execIn machineConfig.cmdTab i s := by
  cases i <;> rfl

/-! ### The rows -/

/-- What the fetch finds. -/
theorem fetch_eq_some {s : State} {i : Instr} (h : fetch s = some i) :
    (s.seq.state = .flush ∧ i = .flush) ∨
    ((s.seq.state = .send ∨ s.seq.state = .check) ∧ s.seq.k < s.seq.n ∧ i = cmdAt s.seq s.seq.k) := by
  unfold fetch at h
  cases hs : s.seq.state <;> simp [hs] at h <;> simp [h]

/-- Everything the WAIT row can do (R155, R156), with a the answer of `TAvail`. -/
theorem waitRow_cases (limit : Option Nat) (s : State) :
    (frameBytes s.seq.n ≤ (tAvail s).1 ∧
      waitRow limit s = (tAvail s).2.setSeq { s.seq with state := .read }) ∨
    ((tAvail s).1 < frameBytes s.seq.n ∧ limitReached limit (s.seq.polls + 1) = false ∧
      waitRow limit s = (tAvail s).2.setSeq { s.seq with polls := s.seq.polls + 1 }) ∨
    ((tAvail s).1 < frameBytes s.seq.n ∧ limitReached limit (s.seq.polls + 1) = true ∧
      waitRow limit s = timeOutTransaction ((tAvail s).2.setSeq { s.seq with polls := s.seq.polls + 1 })) := by
  unfold waitRow
  by_cases h : frameBytes s.seq.n ≤ (tAvail s).1
  · simp [h]
  · cases hl : limitReached limit (s.seq.polls + 1) <;> simp [h, hl] <;> omega

/-- Everything the READ row can do (R157). -/
theorem readRow_cases (s : State) :
    (s.port.received.length < frameBytes s.seq.n ∧ readRow s = .fault .readWouldBlock) ∨
    (frameBytes s.seq.n ≤ s.port.received.length ∧ readRow s =
      .next (((s.setPort { calls := s.port.calls ++ [.read (s.port.received.take (frameBytes s.seq.n))],
                           received := s.port.received.drop (frameBytes s.seq.n) }).setSeq
        { s.seq with rx := s.port.received.take (frameBytes s.seq.n), k := 0, state := .check }).setRes
        { s.res with ok := true, timeout := false, n := 0 })) := by
  unfold readRow
  by_cases h : frameBytes s.seq.n ≤ s.port.received.length
  · simp [tRead_of_le h, h]
  · have hlt : s.port.received.length < frameBytes s.seq.n := by omega
    simp [(tRead_eq_none _ s).mpr hlt, hlt]

/-! ### The step -/

/-- Everything the landing of an input can do. -/
theorem landInput_cases (C : Config) (s : State) :
    (s.inputs = [] ∧ landInput C s = (s, false)) ∨
    ∃ x rest, s.inputs = x :: rest ∧
      ((x = .quiet ∧ landInput C s = (s.setInputs rest, false)) ∨
       (∃ L cs, x = .start L ∧ hostFree s = true ∧ busy s = false ∧ L.length ≤ C.nMax ∧ commandsOfSelectors L = some cs ∧
          landInput C s = (captureStart cs (s.setInputs rest), true)) ∨
       (∃ L, x = .start L ∧ (hostFree s = false ∨ presentStart C L (s.setInputs rest) = none) ∧ landInput C s = (s.setInputs rest, false)) ∨
       (∃ op, x = .request op ∧ landInput C s =
          ((s.setInputs rest).setSession { s.session with pending := s.session.pending ++ [op] }, false)) ∨
       (x = .reset ∧ landInput C s = (blockReset (s.setInputs rest), true)) ∨
       (x = .sessionReset ∧ landInput C s = (sessionReset (s.setInputs rest), true))) := by
  unfold landInput
  cases hi : s.inputs with
  | nil => simp
  | cons x rest =>
    refine .inr ⟨x, rest, rfl, ?_⟩
    cases x with
    | quiet => simp
    | request op => simp
    | reset => simp
    | sessionReset => simp
    | start L =>
      cases hf : hostFree s with
      | false => simp
      | true =>
        cases hp : presentStart C L (s.setInputs rest) with
        | none => simp [hp]
        | some t =>
          obtain ⟨hb, hl, cs, hcs, rfl⟩ := presentStart_eq_some.mp hp
          exact .inr (.inl ⟨L, cs, rfl, rfl, hb, hl, hcs, by simp [hp]⟩)

/-- A start due while an operation of the host is unfinished is none (R210). -/
theorem landInput_start_of_not_free {C : Config} {s : State} {L : List Selector} {rest : List Input}
    (hi : s.inputs = .start L :: rest) (hf : hostFree s = false) : landInput C s = (s.setInputs rest, false) := by
  simp [landInput, hi, hf]

/-- A step that is not its input runs the fetched instruction or the row for the state. -/
theorem innerStep_of_fetch {s : State} {i : Instr} (h : fetch s = some i) : innerStep s = exec i s := by
  simp [innerStep, h]

theorem innerStep_of_none {s : State} (h : fetch s = none) : innerStep s = plainStep machineConfig s := by
  simp [innerStep, h]

/-- With no input due the step is the inner step. -/
theorem step_of_no_input {s : State} (h : s.inputs = []) : step s = innerStep s := by
  simp [step, landInput, h]

/-- With no input due, in IDLE and DONE the step is the host's turn. -/
theorem stepIn_of_idle {C : Config} {s : State} (hi : s.inputs = []) (h : s.seq.state = .idle ∨ s.seq.state = .done) :
    stepIn C s = .next (hostStep C s) := by
  rcases h with h | h <;> simp [stepIn, landInput, hi, fetch, plainStep, h]

theorem step_of_idle {s : State} (hi : s.inputs = []) (h : s.seq.state = .idle ∨ s.seq.state = .done) :
    step s = .next (hostStep machineConfig s) := by
  rcases h with h | h <;> simp [step, landInput, hi, innerStep, fetch, plainStep, h]

/-- An arm of exec for one of the seven commands. -/
theorem exec_of_listable {i : Instr} (h : i.listable = true) (s : State) :
    exec i s = execCommand machineConfig.cmdTab i s := by
  rw [exec_eq_execIn]; simp [execIn, h]

/-- The flush outside FLUSH. -/
theorem exec_flush_of_ne {s : State} (h : s.seq.state ≠ .flush) : exec .flush s = .next s := by
  rcases flushRow_cases machineConfig.cmdTab s with ⟨h', -⟩ | ⟨-, e⟩
  · exact absurd h' h
  · exact e

theorem listable_eq_false {i : Instr} : i.listable = false ↔ i = .flush := by cases i <;> simp [Instr.listable]

/-- Everything the inner step can do: one constructor per row of R165, and the states no run reaches. -/
inductive Row (s : State) : State → Prop where
  | send (hs : s.seq.state = .send) (hk : s.seq.k < s.seq.n) (hc : (cmdAt s.seq s.seq.k).listable = true) :
      Row s (transmit machineConfig.cmdTab (cmdAt s.seq s.seq.k) s)
  | flush (hs : s.seq.state = .flush) :
      Row s ((tWrite (encode machineConfig.cmdTab .flush) s).setSeq { s.seq with polls := 0, state := .wait })
  | check (hs : s.seq.state = .check) (hk : s.seq.k < s.seq.n) (hc : (cmdAt s.seq s.seq.k).listable = true) :
      Row s (checkResponse machineConfig.cmdTab (cmdAt s.seq s.seq.k) s)
  | finish (hs : s.seq.state = .check) (hk : s.seq.n ≤ s.seq.k) : Row s (finishRow s)
  | reset (hs : s.seq.state = .reset) : Row s (resetRow s)
  | wait (hs : s.seq.state = .wait) : Row s (waitRow machineConfig.pollLimit s)
  | read (hs : s.seq.state = .read) (hr : frameBytes s.seq.n ≤ s.port.received.length) :
      Row s (((s.setPort { calls := s.port.calls ++ [.read (s.port.received.take (frameBytes s.seq.n))],
                           received := s.port.received.drop (frameBytes s.seq.n) }).setSeq
        { s.seq with rx := s.port.received.take (frameBytes s.seq.n), k := 0, state := .check }).setRes
        { s.res with ok := true, timeout := false, n := 0 })
  | host (hs : s.seq.state = .idle ∨ s.seq.state = .done) : Row s (hostStep machineConfig s)
  | sendEnd (hs : s.seq.state = .send) (hk : s.seq.n ≤ s.seq.k) : Row s s
  | unlisted (hs : s.seq.state = .send ∨ s.seq.state = .check) (hc : cmdAt s.seq s.seq.k = .flush) : Row s s

theorem innerStep_row {s t : State} (h : innerStep s = .next t) : Row s t := by
  unfold innerStep fetch plainStep at h
  cases hs : s.seq.state with
  | idle => simp only [hs, Host.Outcome.next.injEq] at h; subst h; exact .host (.inl hs)
  | done => simp only [hs, Host.Outcome.next.injEq] at h; subst h; exact .host (.inr hs)
  | reset => simp only [hs, Host.Outcome.next.injEq] at h; subst h; exact .reset hs
  | wait => simp only [hs, Host.Outcome.next.injEq] at h; subst h; exact .wait hs
  | read =>
    simp only [hs] at h
    rcases readRow_cases s with ⟨hr, e⟩ | ⟨hr, e⟩ <;> rw [e] at h
    · cases h
    · simp only [Host.Outcome.next.injEq] at h; subst h; exact .read hs hr
  | flush =>
    simp only [hs] at h
    rcases flushRow_cases machineConfig.cmdTab s with ⟨-, e⟩ | ⟨hn, -⟩
    · change flushRow machineConfig.cmdTab s = _ at h
      rw [e] at h; simp only [Host.Outcome.next.injEq] at h; subst h; exact .flush hs
    · exact absurd hs hn
  | send =>
    simp only [hs] at h
    by_cases hk : s.seq.k < s.seq.n
    · simp only [hk, if_true] at h
      cases hc : (cmdAt s.seq s.seq.k).listable with
      | true =>
        rw [exec_of_listable hc] at h
        simp only [execCommand, hs, hk, if_true, Host.Outcome.next.injEq] at h
        subst h; exact .send hs hk hc
      | false =>
        rw [listable_eq_false] at hc
        rw [hc, exec_flush_of_ne (by simp [hs])] at h
        simp only [Host.Outcome.next.injEq] at h; subst h; exact .unlisted (.inl hs) hc
    · simp only [hk, if_false, Host.Outcome.next.injEq] at h; subst h; exact .sendEnd hs (by omega)
  | check =>
    simp only [hs] at h
    by_cases hk : s.seq.k < s.seq.n
    · simp only [hk, if_true] at h
      cases hc : (cmdAt s.seq s.seq.k).listable with
      | true =>
        rw [exec_of_listable hc] at h
        simp only [execCommand, hs, hk, if_true, Host.Outcome.next.injEq] at h
        subst h; exact .check hs hk hc
      | false =>
        rw [listable_eq_false] at hc
        rw [hc, exec_flush_of_ne (by simp [hs])] at h
        simp only [Host.Outcome.next.injEq] at h; subst h; exact .unlisted (.inr hs) hc
    · simp only [hk, if_false, Host.Outcome.next.injEq] at h; subst h; exact .finish hs (by omega)

/-- What a landed input leaves for the inner step: the state, but for the schedule and the requests pending. -/
def Landed (s u : State) : Prop :=
  u.acc = s.acc ∧ u.chipReady = s.chipReady ∧ u.seq = s.seq ∧ u.res = s.res ∧ u.port = s.port ∧ u.env = s.env ∧
    ∃ pending, u.session = { s.session with pending := pending }

/-- Everything a step can do: an accepted start, a reset of the block or of the session, or, after its input
landed, a row. -/
theorem step_cases {s t : State} (h : step s = .next t) :
    (∃ L rest cs, s.inputs = .start L :: rest ∧ hostFree s = true ∧ busy s = false ∧ cs.length ≤ machineConfig.nMax ∧
      commandsOfSelectors L = some cs ∧ t = captureStart cs (s.setInputs rest)) ∨
    (∃ rest, s.inputs = .reset :: rest ∧ t = blockReset (s.setInputs rest)) ∨
    (∃ rest, s.inputs = .sessionReset :: rest ∧ t = sessionReset (s.setInputs rest)) ∨
    (∃ u, Landed s u ∧ Row u t) := by
  have same : ∀ l, Landed s (s.setInputs l) := fun l => ⟨rfl, rfl, rfl, rfl, rfl, rfl, s.session.pending, rfl⟩
  unfold step at h
  rcases landInput_cases machineConfig s with ⟨hi, e⟩ | ⟨x, rest, hx, hc⟩
  · rw [e] at h
    exact .inr (.inr (.inr ⟨s, ⟨rfl, rfl, rfl, rfl, rfl, rfl, s.session.pending, rfl⟩, innerStep_row h⟩))
  · rcases hc with ⟨rfl, e⟩ | ⟨L, cs, rfl, hf, hb, hl, hcs, e⟩ | ⟨L, rfl, -, e⟩ | ⟨op, rfl, e⟩ | ⟨rfl, e⟩ | ⟨rfl, e⟩ <;>
      rw [e] at h
    · exact .inr (.inr (.inr ⟨_, same rest, innerStep_row h⟩))
    · simp only [Host.Outcome.next.injEq] at h
      exact .inl ⟨L, rest, cs, hx, hf, hb, by have := (commandsOfSelectors_spec hcs).1; omega, hcs, h.symm⟩
    · exact .inr (.inr (.inr ⟨_, same rest, innerStep_row h⟩))
    · have hu : innerStep ((s.setInputs rest).setSession
          { s.session with pending := s.session.pending ++ [op] }) = .next t := h
      refine .inr (.inr (.inr ⟨_, ?_, innerStep_row hu⟩))
      exact ⟨rfl, rfl, rfl, rfl, rfl, rfl, _, rfl⟩
    · simp only [Host.Outcome.next.injEq] at h
      exact .inr (.inl ⟨rest, hx, h.symm⟩)
    · simp only [Host.Outcome.next.injEq] at h
      exact .inr (.inr (.inl ⟨rest, hx, h.symm⟩))

end Sys2Proof.Machine
end

