-- ==== Sys2Proof/Tests/Slice0.lean ====
section
/-! SUPPORT. Tests: the expected values are those of 95_test_vectors.md (the section is named), of the encoding
tables of 30_encoding.md, or worked by hand from the rules. The witnesses show that the hypotheses of the statements
can be met, each clause at the ends of its range. -/

namespace Sys2Proof.Tests

open Sys2Proof Sys2Proof.Machine

/-! ### WellFormed refuses each ill-formed term -/

theorem test_flush_is_not_listable : Instr.listable .flush = false := by decide
theorem test_list_with_flush_refused : listWellFormed 5 [.readId, .flush] = false := by decide
theorem test_list_too_long_refused :
    listWellFormed 5 [.readId, .readId, .readId, .readId, .readId, .readId] = false := by decide
theorem test_list_of_five_accepted : listWellFormed 5 [.readStatus, .readStatus, .readStatus, .readId, .setAngleMode] = true := by
  decide
theorem test_reserved_selector_refused : selectorsWellFormed 5 [3, 7] = false := by decide
theorem test_selectors_too_long_refused : selectorsWellFormed 1 [3, 3] = false := by decide
theorem test_wrong_command_word_refused : CmdTab.checksummed { defaultTable with readId := 0x40000092 } = false := by
  decide +kernel

/-- A concrete configuration the spec allows. -/
def config (limit : Option Nat) : Config :=
  { cmdTab := defaultTable, nMax := 5, pollLimit := limit, faultOnSteadyStatus := false, bus := ⟨0, 0, 0, 0, 0, 0⟩ }

theorem test_config_accepted : (config (some 1)).wellFormed = true := by decide +kernel
theorem test_config_nMax_refused : Config.wellFormed { config none with nMax := 4 } = false := by decide +kernel
theorem test_config_limit_refused : (config (some 0)).wellFormed = false := by decide +kernel

/-! ### Decoding: each word bit by bit, rd, addr, rs, data, crc (R63, R66) -/

theorem test_decode_setMode : decodeTableWord 32 0b1_01101_00_0000000000000000_00011111 = some .setMode := by decide
theorem test_decode_setAngleMode : decodeTableWord 32 0b1_01100_00_0000000000011111_01101111 = some .setAngleMode := by
  decide
theorem test_decode_readStatus : decodeTableWord 32 0b0_00110_00_0000000000000000_11100101 = some .readStatus := by decide
theorem test_decode_readId : decodeTableWord 32 0b0_10000_00_0000000000000000_10010001 = some .readId := by decide
theorem test_decode_readAngleX : decodeTableWord 32 0b0_01001_00_0000000000000000_11000111 = some .readAngleX := by decide
theorem test_decode_readAngleY : decodeTableWord 32 0b0_01010_00_0000000000000000_11001101 = some .readAngleY := by decide
theorem test_decode_readAngleZ : decodeTableWord 32 0b0_01011_00_0000000000000000_11001011 = some .readAngleZ := by decide
/-- A word of G2 that is a frame without CRC error and no command of this block (R68). -/
theorem test_decode_other_word : decodeTableWord 32 0x040000F7 = none := by decide
/-- Byte order (3.3): reversed, the word is no command. -/
theorem test_decode_reversed : decodeBytes defaultTable [0x91, 0x00, 0x00, 0x40] = .error .notACommand := by decide
theorem test_decode_short : decodeBytes defaultTable [0x40, 0x00, 0x00] = .error .tooShort := by decide
/-- 3.3. -/
theorem test_encode_setAngleMode : encode defaultTable .setAngleMode = [0xB0, 0x00, 0x1F, 0x6F] := by decide
theorem test_encode_flush : encode defaultTable .flush = [0x40, 0x00, 0x00, 0x91] := by decide

/-! ### CRC-8 (section 2) -/

/-- 2.1, the first eight rows of the trace. -/
theorem test_crc_trace : ((messageBits 0x180000E5).take 8).foldl crcStep 0xFF = 0xE1 := by decide +kernel
/-- 2.1, after the last row. -/
theorem test_crc_acc : crcAcc 0x180000E5 = 0x1A := by decide +kernel
/-- 2.3. -/
theorem test_crc_values : crc8 0 = 0xF1 ∧ crc8 0x000000FF = 0xF1 ∧ crc8 0xFFFFFF00 = 0x7A ∧ crc8 0x80000000 = 0x31 ∧
    crc8 0x00000100 = 0xEC ∧ crc8 0x12345678 = 0x96 ∧ crc8 0xDEADBEEF = 0x0D := by decide +kernel
/-- 2.3, the published check value of the algorithm. -/
theorem test_crc_check_value : crcOfBytes [0x31, 0x32, 0x33, 0x34, 0x35, 0x36, 0x37, 0x38, 0x39] = 0x4B := by
  decide +kernel
/-- 2.4: the two and three bit flips of 0x4100C136, and its one dangerous three-bit flip. -/
theorem test_crc_flips : crcErrorOf 0x4100C136 = false ∧ crcErrorOf 0xC100C136 = true ∧ crcErrorOf 0x4300C135 = false := by
  decide +kernel
/-- R102 as printed, `(0xFF * x^24 + M) * x^8`, for w = 0: the remainder of 0xFF * x^32, which is that of x^8 times
the remainder of 0xFF * x^24. That is 0xA6; the accumulator of R91 to R94 is 0x0E, which 2.3 confirms (the complement
of `crc8(0) = 0xF1`), and 0x0E is the remainder of 0xFF * x^24 (log 26). -/
theorem test_crc_R102_as_printed : polyRem ((polyRem 0xFF000000).setWidth 32 <<< 8) = 0xA6 ∧
    crcAcc 0 = 0x0E ∧ polyRem (crcDividend 0) = 0x0E := by decide +kernel

/-! ### Codec, verdict, status, angles (section 3) -/

/-- 3.1. -/
theorem test_decodeFrame : decodeFrame 0xB1001FE0 = ⟨1, 0x0C, 1, 0x001F, 0xE0, false⟩ ∧
    decodeFrame 0x29001042 = ⟨0, 0x0A, 1, 0x0010, 0x42, true⟩ ∧ decodeFrame 0xFFFFFFFF = ⟨1, 0x1F, 3, 0xFFFF, 0xFF, true⟩ ∧
    decodeFrame 0x4100C1C9 = ⟨0, 0x10, 1, 0x00C1, 0xC9, true⟩ := by decide +kernel
/-- 3.2. -/
theorem test_encodeFields : encodeFields 0 0x10 1 0x00C1 = 0x4100C136 ∧ encodeFields 1 0x1F 3 0xFFFF = 0xFFFFFF7A ∧
    encodeFields 1 0x0D 0 0 = 0xB400001F := by decide +kernel
/-- 3.4: rows 2, 3, 5, 6 and 8. -/
theorem test_verdict : verdict defaultTable (decodeFrame 0x4300C135) .readId = .valid ∧
    verdict defaultTable (decodeFrame 0x1900006A) .readId = .addressMismatch ∧
    verdict defaultTable (decodeFrame 0x4100C137) .readId = .crcError ∧
    verdict defaultTable (decodeFrame 0x29001042) .readAngleX = .crcError ∧
    verdict defaultTable (decodeFrame 0x31001F20) .setAngleMode = .valid := by decide +kernel
/-- 3.5. -/
theorem test_status : statusDecode 0x0012 = ⟨[.operationModeChanged, .voltageLevelFailure], false⟩ ∧
    statusDecode 0x8021 = ⟨[.internalConnectionError, .temperatureSignalPathSaturated], true⟩ ∧
    statusDecode 0x0400 = ⟨[], true⟩ ∧ (statusDecode 0x0200).usable = false := by decide +kernel
/-- 3.6. -/
theorem test_degrees : degrees 0x1234 = 52425 / 2048 ∧ degrees 0x8000 = 180 ∧ degrees 0xFFFF = 2949075 / 8192 := by
  refine ⟨?_, ?_, ?_⟩ <;> simp only [degrees, BitVec.reduceToNat] <;> norm_num

/-! ### One step of each instruction -/

/-- The state a step gives, if it gives one. -/
def after (o : Host.Outcome State Fault Refusal) : Option State :=
  match o with
  | .next t => some t
  | .fault _ => none
  | .refused _ => none

/-- SEND, a list of one command. -/
def sending (i : Instr) : State := placeCommand i State.reset

/-- CHECK, one command and the word that came back for it. -/
def checking (i : Instr) (w : Word) : State :=
  { State.reset with
    seq := { state := .check, n := 1, cmds := [i], k := 0, polls := 1, rx := [0xFF, 0xFF, 0xFF, 0xFF] ++ bytesOfWord w }
    res := { TransactionResult.reset with ok := true } }

/-- The calls a step made. -/
def callsOf (o : Host.Outcome State Fault Refusal) : Option (List Call) := (after o).map (·.port.calls)

/-- `RES.ok`, CHIP_READY and the frames after a step. -/
def judged (o : Host.Outcome State Fault Refusal) : Option (Bool × Bool × List Frame) :=
  (after o).map fun t => (t.res.ok, t.chipReady, t.res.frame)

theorem test_send_setMode : callsOf (exec .setMode (sending .setMode)) = some [.write [0xB4, 0x00, 0x00, 0x1F]] := by
  decide +kernel
theorem test_send_setAngleMode :
    callsOf (step (sending .setAngleMode)) = some [.write [0xB0, 0x00, 0x1F, 0x6F]] := by decide +kernel
theorem test_send_readStatus : callsOf (step (sending .readStatus)) = some [.write [0x18, 0x00, 0x00, 0xE5]] := by
  decide +kernel
theorem test_send_readId : callsOf (step (sending .readId)) = some [.write [0x40, 0x00, 0x00, 0x91]] := by decide +kernel
theorem test_send_readAngleX : callsOf (step (sending .readAngleX)) = some [.write [0x24, 0x00, 0x00, 0xC7]] := by
  decide +kernel
theorem test_send_readAngleY : callsOf (step (sending .readAngleY)) = some [.write [0x28, 0x00, 0x00, 0xCD]] := by
  decide +kernel
theorem test_send_readAngleZ : callsOf (step (sending .readAngleZ)) = some [.write [0x2C, 0x00, 0x00, 0xCB]] := by
  decide +kernel
/-- 3.1: the response to SET_MODE. -/
theorem test_check_setMode : judged (exec .setMode (checking .setMode 0xB5000090)) =
    some (true, true, [⟨1, 0x0D, 1, 0, 0x90, false⟩]) := by decide +kernel
/-- P2 and its variant: the response to SET_ANGLE_MODE echoed with rs = 0. -/
theorem test_check_setAngleMode : judged (step (checking .setAngleMode 0xB0001F6F)) =
    some (true, false, [⟨1, 0x0C, 0, 0x001F, 0x6F, false⟩]) := by decide +kernel
/-- P2, frame 0: rs = 3 is not ready, and no failure. -/
theorem test_check_readStatus : judged (step (checking .readStatus 0x1B00129E)) =
    some (true, false, [⟨0, 0x06, 3, 0x0012, 0x9E, false⟩]) := by decide +kernel
/-- P1, a variant: CrcError, and CHIP_READY is still written from the bad frame. -/
theorem test_check_readId : judged (step (checking .readId 0x4100C137)) =
    some (false, true, [⟨0, 0x10, 1, 0x00C1, 0x37, true⟩]) := by decide +kernel
/-- P5, frame 0. -/
theorem test_check_readAngleX : judged (step (checking .readAngleX 0x254000A2)) =
    some (true, true, [⟨0, 0x09, 1, 0x4000, 0xA2, false⟩]) := by decide +kernel
/-- P5, frame 1. -/
theorem test_check_readAngleY : judged (step (checking .readAngleY 0x29001042)) =
    some (false, true, [⟨0, 0x0A, 1, 0x0010, 0x42, true⟩]) := by decide +kernel
/-- An answer to READ_ANGLE_X where one to READ_ANGLE_Z was due. -/
theorem test_check_readAngleZ : judged (step (checking .readAngleZ 0x254000A2)) =
    some (false, true, [⟨0, 0x09, 1, 0x4000, 0xA2, false⟩]) := by decide +kernel

/-- The state FLUSH, with n commands sent. -/
def flushing (n : Nat) : State :=
  { State.reset with seq := { state := .flush, n := n, cmds := List.replicate n .readId, k := n, polls := 4, rx := [] } }

theorem test_flush : callsOf (step (flushing 0)) = some [.write [0x40, 0x00, 0x00, 0x91]] ∧
    (after (step (flushing 0))).map (fun t => (t.seq.state, t.seq.polls)) = some (.wait, 0) := by decide +kernel

/-! ### Steps that run no instruction (P1, P6, P7) -/

/-- WAIT for n commands, with the answers of TAvail and the bytes that arrive. -/
def waiting (n polls : Nat) (avail : List Nat) : State :=
  { State.reset with
    seq := { state := .wait, n := n, cmds := List.replicate n .readId, k := n, polls := polls, rx := [] }
    env := { avail := avail, incoming := [], configure := [], draws := 0 } }

/-- P6, the third failed poll of three. -/
theorem test_timeout : (after (stepIn (config (some 3)) (waiting 1 2 [4]))).map (fun t => (t.seq.state, t.seq.polls, t.res.valid,
    t.res.ok, t.res.timeout, t.res.n)) = some (.done, 3, true, false, true, 0) := by decide +kernel
/-- P6, the second. -/
theorem test_failed_poll : (after (stepIn (config (some 3)) (waiting 1 1 [4]))).map (fun t => (t.seq.state, t.seq.polls)) =
    some (.wait, 2) := by decide +kernel
/-- P1, row 7. -/
theorem test_successful_poll : (after (stepIn (config none) (waiting 1 2 [8]))).map (fun t => (t.seq.state, t.seq.polls)) =
    some (.read, 2) := by decide +kernel
/-- P7 (b). -/
theorem test_reserved_start_refused :
    (after (step { State.reset with inputs := [.start [7]] })).map (fun t => (t.seq.state, t.port.calls)) = some (.idle, []) := by
  decide +kernel

/-- The host at a phase, with a session state and operations asked for, while the sequencer is idle or done. -/
def hosting (q : SeqPhase) (phase : HostPhase) (st : SessionState) (pending : List HostOp) : State :=
  { State.reset with
    seq := { Sequencer.reset with state := q }
    session := { Session.reset with state := st, phase := phase, pending := pending } }

/-- A transaction has ended; its frames are in `RES`. -/
def ended (ok ready : Bool) (phase : HostPhase) (st : SessionState) (frames : List Word) : State :=
  { hosting .done phase st [] with
    chipReady := ready
    res := { valid := true, ok := ok, timeout := false, n := frames.length, frame := frames.map decodeFrame, req := [] } }

/-- P4, the variant with status 0x0012: the baseline stays Ready, FAULT_ON_STEADY_STATUS = true faults with a cause. -/
theorem test_refresh_bad_status :
    let s := ended true false .awaitRefresh .ready [0x2512345A, 0x29FFFFC7, 0x2D80008D, 0x1B00129E]
    let r : StatusReport := ⟨[.operationModeChanged, .voltageLevelFailure], false⟩
    (after (stepIn (config none) s)).map (fun t => (t.session.state, t.session.result)) = some (.ready, some (.refreshed r none)) ∧
    (after (stepIn { config none with faultOnSteadyStatus := true } s)).map (fun t => (t.session.state, t.session.result)) =
      some (.faulted, some (.refreshed r (some .faultBitsSet))) := by decide +kernel

/-- R210: in DONE, before the host has read the result it waits for, a start is none: the refresh ends with its own
frames, and no transaction begins (log 28). -/
theorem test_start_before_operation_ends :
    let s := ended true true .awaitRefresh .ready [0x2512345A, 0x29FFFFC7, 0x2D80008D, 0x190020ED]
    (after (step (s.setInputs [.start [3]]))).map (fun t => (t.seq.state, t.session.phase, t.session.result)) =
      some (.done, .idle, some (.refreshed ⟨[.temperatureSignalPathSaturated], true⟩ none)) := by decide +kernel

/-- Log 29: CheckChipsetID from Uninitialized, with `TConfigure` never called, starts its transaction. -/
theorem test_identity_unconfigured : hostStart (config none) identityCommands State.reset =
    captureStart [.readId] State.reset := by decide

/-! ### Witnesses: the CRC and the codec -/

/-- Frames valid and not, at the ends of the message bits. -/
theorem witness_CrcIsAffineOverXor : 8 ≤ 31 ∧ 31 < 32 ∧ crcContribution 8 = crc8 ((1 : Word) <<< 8) ^^^ 0xF1 ∧
    crcContribution 31 = crc8 ((1 : Word) <<< 31) ^^^ 0xF1 := by decide +kernel

/-- A change that passes and one that is caught. -/
theorem witness_CorruptionPasses : crcErrorOf 0x4100C136 = false ∧ crcXorNetwork 0x02000003 = crcField 0x02000003 ∧
    crcXorNetwork 0x80000000 ≠ crcField 0x80000000 := by decide +kernel

theorem witness_OneAndTwoBitFlips : crcErrorOf 0x4100C136 = false ∧ 0 < 32 ∧ 31 < 32 ∧ 0 ≠ 31 := by decide +kernel

/-- Three flips at the low and at the high end. -/
theorem witness_ThreeBitFlips : crcErrorOf 0x4100C136 = false ∧ (0 < 1 ∧ 1 < 25 ∧ 25 < 32) ∧
    (1 : Word) <<< 0 ^^^ (1 : Word) <<< 1 ^^^ (1 : Word) <<< 25 = 0x02000003 ∧ (29 < 30 ∧ 30 < 31 ∧ 31 < 32) := by
  decide +kernel

theorem witness_RoundTrip : defaultTable.checksummed = true ∧ Instr.listable .setMode = true ∧
    Instr.listable .readAngleZ = true ∧ (decodeFrame 0x000000F1).crcError = false := by decide +kernel

/-- One frame for each clause; the second has both faults. -/
theorem witness_Verdict :
    ((decodeFrame 0x4100C137).crcError = true) ∧
    ((decodeFrame 0x29001042).crcError = true ∧ (decodeFrame 0x29001042).addr ≠ requestAddr defaultTable .readAngleX) ∧
    ((decodeFrame 0x1900006A).crcError = false ∧ (decodeFrame 0x1900006A).addr ≠ requestAddr defaultTable .readId) ∧
    ((decodeFrame 0x4100C136).crcError = false ∧ (decodeFrame 0x4100C136).addr = requestAddr defaultTable .readId) := by
  decide +kernel

theorem witness_DecodeAndEncode : (commands.map (cmdWord defaultTable)).Nodup ∧
    (∀ i ∈ commands, i.listable = true) ∧ decodeBytes defaultTable [0x40, 0, 0, 0x91, 0xFF] = .ok (.readId, [0xFF]) ∧
    [0x40, 0, (0 : Byte)].length < 4 := by decide

/-! ### Witnesses: the instructions -/

/-- SEND with the last command due, and with another after it. -/
theorem witness_CommandsTransmit :
    (∀ i ∈ commands, i.listable = true ∧ (sending i).seq.state = .send ∧ (sending i).seq.k < (sending i).seq.n) ∧
    (let s : State := { sending .readId with seq := { (sending .readId).seq with n := 2, cmds := [.readId, .setMode] } }
     s.seq.state = .send ∧ s.seq.k + 1 < s.seq.n) := by decide

theorem witness_CommandsJudge : ∀ i ∈ commands, i.listable = true ∧
    (checking i 0x4100C136).seq.state = .check ∧ (checking i 0x4100C136).seq.k < (checking i 0x4100C136).seq.n := by decide

/-- No transaction; and SEND and CHECK with nothing left. -/
theorem witness_CommandsHaveNoEffect :
    (State.reset.seq.state ≠ .send ∧ State.reset.seq.state ≠ .check) ∧
    (let s : State := { sending .readId with seq := { (sending .readId).seq with k := 1 } }
     s.seq.state = .send ∧ s.seq.n ≤ s.seq.k) ∧
    (let s : State := { checking .readId 0 with seq := { (checking .readId 0).seq with k := 1 } }
     s.seq.state = .check ∧ s.seq.n ≤ s.seq.k) := by decide

theorem witness_Flush : (flushing 0).seq.state = .flush ∧ (flushing 1).seq.state = .flush ∧
    State.reset.seq.state ≠ .flush := by decide

/-- 3.1: two identification responses that differ in data only. -/
theorem witness_DirectionAndPayload :
    let s := checking .readId 0x4100C136
    let rx := (checking .readId 0x4112C11A).seq.rx
    let f := decodeFrame (responseWord s.seq s.seq.k)
    let f' := decodeFrame (responseWord { s.seq with rx := rx } s.seq.k)
    s.seq.state = .check ∧ f.addr = f'.addr ∧ f.rs = f'.rs ∧ f.crcError = f'.crcError ∧ f.data ≠ f'.data := by
  decide +kernel

theorem witness_ArtifactFrame :
    let s := checking .readId 0x4100C136
    let rx := [0xAA, 0x55, 0xAA, 0x55] ++ bytesOfWord 0x4100C136
    s.inputs = [] ∧ s.seq.state = .check ∧ ∀ j, 4 ≤ j → rxAt { s.seq with rx := rx } j = rxAt s.seq j := by
  refine ⟨rfl, rfl, fun j hj => ?_⟩
  obtain ⟨k, rfl⟩ := Nat.exists_eq_add_of_le' hj
  rfl

/-! ### Witnesses: the step -/

theorem witness_StepRuns :
    (∀ i ∈ commands, (sending i).inputs = [] ∧ (sending i).seq.state = .send ∧ (sending i).seq.k < (sending i).seq.n ∧
      (sending i).seq.cmds[(sending i).seq.k]? = some i) ∧
    (∀ i ∈ commands, (checking i 0).inputs = [] ∧ (checking i 0).seq.state = .check ∧
      (checking i 0).seq.k < (checking i 0).seq.n ∧ (checking i 0).seq.cmds[(checking i 0).seq.k]? = some i) ∧
    ((flushing 0).inputs = [] ∧ (flushing 0).seq.state = .flush) ∧
    ((flushing 0).setInputs [.quiet]).inputs = .quiet :: [] ∧ ((sending .readId).setInputs [.quiet]).inputs = .quiet :: [] := by
  decide

theorem witness_PlacedWord : ∀ i ∈ commands, decodeTableWord 32 (cmdWord defaultTable i).toNat = some i := by decide

/-- The empty list, and five commands with the lowest and highest selectors, from IDLE and from DONE. -/
theorem witness_AcceptedStart :
    selectorsWellFormed machineConfig.nMax [] = true ∧
    selectorsWellFormed machineConfig.nMax [0, 6, 2, 3, 4] = true ∧
    (State.reset.setInputs [.start [0, 6, 2, 3, 4]]).inputs = .start [0, 6, 2, 3, 4] :: [] ∧
    State.reset.session.phase = .idle ∧
    State.reset.seq.state = .idle ∧ (State.reset.setSeq { Sequencer.reset with state := .done }).seq.state = .done ∧
    ((hosting .done .awaitRefresh .ready []).setInputs [.start [3]]).inputs = .start [3] :: [] ∧
    (hosting .done .awaitRefresh .ready []).session.phase ≠ .idle := by
  refine ⟨?_, ?_, rfl, rfl, rfl, rfl, rfl, by decide⟩
  · simp [selectorsWellFormed]
  · have := five_le_nMax
    simp [selectorsWellFormed, this]

/-- Busy with a list that would do; one command too many; the reserved selector. -/
theorem witness_RefusedStart :
    busy (sending .readId) = true ∧
    machineConfig.nMax < (List.replicate (machineConfig.nMax + 1) (0 : Selector)).length ∧
    (7 : Selector) ∈ [(3 : Selector), 7] := by
  refine ⟨by decide, by simp, by decide⟩

theorem witness_StandStill : State.reset.inputs = [] ∧ State.reset.seq.state = .idle ∧
    State.reset.session.phase = .idle ∧ State.reset.session.pending = [] := by decide

/-- The sequencer in RESET. -/
def resetting (cmds : List Instr) : State :=
  State.reset.setSeq { Sequencer.reset with state := .reset, n := cmds.length, cmds := cmds }

theorem witness_ResetRow : (resetting []).inputs = [] ∧ (resetting []).seq.state = .reset ∧ (resetting []).seq.n = 0 ∧
    (resetting [.readId]).seq.state = .reset ∧ 0 < (resetting [.readId]).seq.n := by decide

/-- N = 1, threshold 8: enough; one byte short without a limit, below the limit, at the limit; a drawn answer. -/
theorem witness_WaitRows :
    let a := fun s : State => s.env.avail.headD (Config.freeAvail s.env.draws)
    (waiting 1 0 [8]).inputs = [] ∧ (waiting 1 0 [8]).seq.state = .wait ∧
    4 * ((waiting 1 0 [8]).seq.n + 1) ≤ a (waiting 1 0 [8]) ∧ a (waiting 1 0 [7]) < 4 * ((waiting 1 0 [7]).seq.n + 1) ∧
    (∀ p, (config none).pollLimit = some p → (waiting 1 0 [7]).seq.polls + 1 < p) ∧
    (∀ p, (config (some 2)).pollLimit = some p → (waiting 1 0 [7]).seq.polls + 1 < p) ∧
    (∃ p, (config (some 2)).pollLimit = some p ∧ p ≤ (waiting 1 1 [7]).seq.polls + 1) ∧
    (waiting 1 0 []).env.avail = [] := by
  refine ⟨rfl, rfl, by decide, by decide, by simp [config], ?_, ⟨2, rfl, by decide⟩, rfl⟩
  intro p hp
  obtain rfl : 2 = p := by simpa [config] using hp
  decide

/-- READ for one command, with these bytes in the transport. -/
def reading (received : List Byte) : State :=
  { State.reset with
    seq := { state := .read, n := 1, cmds := [.readId], k := 1, polls := 0, rx := [] }
    port := { calls := [], received := received } }

/-- Exactly enough, one more than enough, one short. -/
theorem witness_ReadRow :
    (reading []).inputs = [] ∧ (reading []).seq.state = .read ∧
    (reading [1, 2, 3, 4, 5, 6, 7, 8]).port.received = [1, 2, 3, 4, 5, 6, 7, 8] ++ [] ∧
    (reading [1, 2, 3, 4, 5, 6, 7, 8, 9]).port.received = [1, 2, 3, 4, 5, 6, 7, 8] ++ [9] ∧
    [(1 : Byte), 2, 3, 4, 5, 6, 7, 8].length = 4 * ((reading []).seq.n + 1) ∧
    (reading [1, 2, 3, 4, 5, 6, 7]).port.received.length < 4 * ((reading []).seq.n + 1) := by decide

theorem witness_LastCheckRow :
    let s : State := (checking .readId 0).setSeq { (checking .readId 0).seq with k := 1 }
    s.inputs = [] ∧ s.seq.state = .check ∧ s.seq.k = s.seq.n := by decide

theorem witness_BlockReset : ((checking .readId 0).setInputs [.reset]).inputs = .reset :: [] := by decide

/-! ### Witnesses: the invariants -/

/-- The block's invariant holds in the middle of a CHECK. -/
theorem witness_Inv : Machine.Inv machineConfig (checking .readId 0x4100C136) where
  n_le := Nat.le_trans (by decide) five_le_nMax
  k_le := by decide
  cmds_captured := by decide
  cmds_listable := by decide
  req_listable := by decide
  frames_checked := by decide
  busy_result := by decide
  done_result := by decide
  reset_index := by decide
  send_index := by decide
  sent_index := by decide
  wait_polls := nofun
  read_bytes := nofun
  check_bytes := by decide
  check_count := by decide
  check_pairs := fun _ i hi => absurd hi (Nat.not_lt_zero i)
  result_written := by decide
  result_judged := fun _ _ => ⟨fun _ i hi => absurd hi (Nat.not_lt_zero i), fun _ => rfl⟩
  result_timeout := by decide
  result_ready := fun _ h => absurd h (by decide)

/-- And a step leads on from there. -/
theorem witness_Inv_step : ∃ t, step (checking .readId 0x4100C136) = .next t := ⟨_, rfl⟩

/-- DONE after the empty list (P7 (c)), with an input due. -/
def finished (x : Input) : State :=
  { State.reset with
    seq := { Sequencer.reset with state := .done }
    res := { TransactionResult.reset with valid := true, ok := true }
    inputs := [x] }

theorem finished_inv (x : Input) : Machine.Inv machineConfig (finished x) where
  n_le := Nat.zero_le _
  k_le := Nat.le_refl _
  cmds_captured := Nat.le_refl _
  cmds_listable := nofun
  req_listable := nofun
  frames_checked := nofun
  busy_result := nofun
  done_result := fun _ => rfl
  reset_index := nofun
  send_index := nofun
  sent_index := by rintro (h | h | h) <;> cases h
  wait_polls := nofun
  read_bytes := nofun
  check_bytes := nofun
  check_count := nofun
  check_pairs := nofun
  result_written := fun _ => ⟨Nat.le_refl _, Nat.le_refl _⟩
  result_judged := fun _ _ => ⟨fun _ i hi => absurd hi (Nat.not_lt_zero i), fun _ => rfl⟩
  result_timeout := nofun
  result_ready := fun _ h => absurd h (Nat.lt_irrefl 0)

/-- A result presented, a next state, and each of the ways the result can go. -/
theorem witness_ResultLasts :
    (∀ x, Machine.Inv machineConfig (finished x) ∧ (finished x).res.valid = true) ∧
    (∃ t, step (finished .quiet) = .next t) ∧ (∃ t, step (finished (.start [])) = .next t) ∧
    (∃ t, step (finished .reset) = .next t) := by
  refine ⟨fun x => ⟨finished_inv x, rfl⟩, ⟨_, rfl⟩, ?_, ⟨_, rfl⟩⟩
  have h : presentStart machineConfig [] ((finished (.start [])).setInputs []) =
      some (captureStart [] ((finished (.start [])).setInputs [])) :=
    presentStart_eq_some.mpr ⟨rfl, Nat.zero_le _, [], rfl, rfl⟩
  have e : landInput machineConfig (finished (.start [])) =
      (captureStart [] ((finished (.start [])).setInputs []), true) := by
    rcases landInput_cases machineConfig (finished (.start [])) with ⟨hi, -⟩ | ⟨x, rest, hx, hc⟩
    · cases hi
    · cases hx
      rcases hc with ⟨hq, -⟩ | ⟨L, cs, hq, -, -, -, hcs, e⟩ | ⟨L, hq, hp, -⟩ | ⟨op, hq, -⟩ | ⟨hq, -⟩ | ⟨hq, -⟩ <;> cases hq
      · cases hcs; exact e
      · rcases hp with hp | hp
        · cases hp
        · rw [h] at hp; cases hp
  exact ⟨captureStart [] ((finished (.start [])).setInputs []), by simp only [step, e]⟩

/-- In SEND of the refresh transaction the host waits for. -/
def refreshing : State :=
  { hosting .send .awaitRefresh .ready [] with
    seq := { state := .send, n := 4, cmds := refreshCommands, k := 1, polls := 0, rx := [] } }

/-- The host's invariant while its transaction runs. -/
theorem witness_HostInv_running : HostInv refreshing where
  phase_state := fun st h => by simpa [refreshing, hosting, phaseState] using h
  own_transaction := fun L h => by
    obtain rfl : refreshCommands = L := by simpa [refreshing, hosting, phaseCommands] using h
    exact .inr ⟨rfl, rfl⟩
  angle_x := ⟨0, by simp [refreshing, hosting, Session.reset, degrees]⟩
  angle_y := ⟨0, by simp [refreshing, hosting, Session.reset, degrees]⟩
  angle_z := ⟨0, by simp [refreshing, hosting, Session.reset, degrees]⟩

theorem witness_HostInv_step : ∃ t, step refreshing = .next t := ⟨_, rfl⟩

/-- The host's invariant while setup is at its start. -/
theorem witness_HostInv : HostInv (hosting .idle .configure .poweringUp []) where
  phase_state := fun st h => by simpa [hosting, phaseState] using h
  own_transaction := nofun
  angle_x := ⟨0, by simp [hosting, Session.reset, degrees]⟩
  angle_y := ⟨0, by simp [hosting, Session.reset, degrees]⟩
  angle_z := ⟨0, by simp [hosting, Session.reset, degrees]⟩

/-- Its step, with TConfigure failing, takes the session to another state; so does the host's reset. -/
theorem witness_SessionTransitions :
    let s : State := (hosting .idle .configure .poweringUp []).setEnv ⟨[], [], [false], 0⟩
    (after (step s)).map (·.session.state) = some .faulted ∧
    (after (step (s.setInputs [.sessionReset]))).map (·.session.state) = some .uninitialized ∧
    (s.setInputs [.sessionReset]).inputs = .sessionReset :: [] := by decide +kernel

/-- CHIP_READY turns true from a frame, and false by reset. -/
theorem witness_ChipReady :
    (checking .readId 0x4100C136).chipReady = false ∧
    (after (step (checking .readId 0x4100C136))).map (·.chipReady) = some true ∧
    (after (step (((checking .readId 0).setChipReady true).setInputs [.reset]))).map (·.chipReady) = some false := by
  decide +kernel

/-- P4: a refresh that succeeded; and one that failed. -/
theorem witness_Angles :
    (∃ t, step (ended true true .awaitRefresh .ready [0x2512345A, 0x29FFFFC7, 0x2D80008D, 0x190020ED]) = .next t) ∧
    (ended true true .awaitRefresh .ready []).session.phase = .awaitRefresh ∧
    (ended true true .awaitRefresh .ready []).seq.state = .done ∧
    (ended true true .awaitRefresh .ready []).res.ok = true := ⟨⟨_, rfl⟩, rfl, rfl, rfl⟩

/-- A step that makes each of the five calls. -/
theorem witness_EachStepMakesTheCall :
    callsOf (step (resetting [.readId])) = some [.reset] ∧
    callsOf (step (waiting 1 0 [8])) = some [.avail 8] ∧
    callsOf (step (reading [1, 2, 3, 4, 5, 6, 7, 8])) = some [.read [1, 2, 3, 4, 5, 6, 7, 8]] ∧
    callsOf (step (hosting .idle .setMode .poweringUp [])) = some [.write [0xB4, 0x00, 0x00, 0x1F]] ∧
    (∃ t, step ((hosting .idle .configure .poweringUp []).setEnv ⟨[], [], [true], 0⟩) = .next t) := by
  refine ⟨by decide +kernel, by decide +kernel, by decide +kernel, by decide +kernel, ⟨_, rfl⟩⟩

/-- IDLE, with a list presented, and with what the environment will answer. -/
def starting (L : List Instr) (avail : List Nat) (incoming : List Byte) : State :=
  { State.reset with
    env := { avail := avail, incoming := incoming, configure := [], draws := 0 }
    inputs := [.start (L.map selectorOf)] }

/-- P1, with its two failed polls, without a limit and with a limit of 3; and P7 (c), the empty list. -/
theorem witness_Transaction :
    (let bs : List Byte := [0xFF, 0xFF, 0xFF, 0xFF, 0x41, 0x00, 0xC1, 0x36]
     let s := starting [.readId] [0, 4, 8] (bs ++ [])
     s.inputs = [.start ([Instr.readId].map selectorOf)] ∧ s.session.phase = .idle ∧ s.seq.state = .idle ∧
     listWellFormed (config none).nMax [.readId] = true ∧ s.env.avail = [0, 4] ++ 8 :: [] ∧
     (∀ p ∈ [0, 4], p < 4 * ([Instr.readId].length + 1)) ∧ 4 * ([Instr.readId].length + 1) ≤ 8 ∧
     limitReached (config none).pollLimit [0, 4].length = false ∧
     limitReached (config (some 3)).pollLimit [0, 4].length = false ∧ s.env.incoming = bs ++ [] ∧
     bs.length = 4 * ([Instr.readId].length + 1) ∧ 8 ≤ s.env.incoming.length) ∧
    (let bs : List Byte := [0x12, 0x34, 0x56, 0x78]
     let s := starting [] [5] (bs ++ [0x9A])
     s.inputs = [.start ([].map selectorOf)] ∧ s.session.phase = .idle ∧ listWellFormed (config none).nMax [] = true ∧
     s.env.avail = [] ++ 5 :: [] ∧ s.env.incoming = bs ++ [0x9A] ∧ bs.length = 4 * (([] : List Instr).length + 1) ∧
     5 ≤ s.env.incoming.length) := by decide

/-- P6, and the shortest limit. -/
theorem witness_Timeout :
    (let s := starting [.readId] [0, 4, 4] []
     (config (some 3)).pollLimit = some 3 ∧ 0 < 3 ∧ [0, 4, 4].length = 3 ∧ s.inputs = [.start ([Instr.readId].map selectorOf)] ∧
     s.session.phase = .idle ∧ s.seq.state = .idle ∧ listWellFormed (config (some 3)).nMax [.readId] = true ∧ s.env.avail = [0, 4, 4] ++ [] ∧
     ∀ a ∈ [0, 4, 4], a < 4 * ([Instr.readId].length + 1)) ∧
    (let s := starting [] [3] []
     (config (some 1)).pollLimit = some 1 ∧ [3].length = 1 ∧ s.env.avail = [3] ++ [] ∧
     ∀ a ∈ [3], a < 4 * (([] : List Instr).length + 1)) := by decide

theorem witness_WithoutALimit :
    (config none).pollLimit = none ∧ (waiting 1 0 [0, 7]).inputs = [] ∧ (waiting 1 0 [0, 7]).seq.state = .wait ∧
    (waiting 1 0 [0, 7]).env.avail = [0, 7] ++ [] ∧ ∀ a ∈ [0, 7], a < 4 * ((waiting 1 0 [0, 7]).seq.n + 1) := by decide

/-! ### Witnesses: the status decoder and the host -/

/-- The lowest and the highest condition, one that forces a reboot and one that does not, reported and not. -/
theorem witness_Status :
    (0x0200 : Half).toNat.testBit 9 = true ∧ (0x0001 : Half).toNat.testBit 0 = true ∧ (0x01FF : Half).toNat.testBit 9 = false ∧
    (0xFC12 : Half) &&& 0x03FF = 0x0012 &&& 0x03FF := by decide

theorem witness_SetupBegins :
    let s := hosting .done .idle .faulted [.setup]
    s.inputs = [] ∧ s.seq.state = .done ∧ s.session.phase = .idle ∧ s.session.pending = .setup :: [] := by decide

theorem witness_SetupConfigures :
    let s : State := (hosting .idle .configure .poweringUp []).setEnv ⟨[], [], [false], 0⟩
    s.inputs = [] ∧ s.seq.state = .idle ∧ s.session.phase = .configure ∧ s.env.configure = false :: [] ∧
    (s.setEnv ⟨[], [], [true], 0⟩).env.configure = true :: [] := by decide

theorem witness_SetupSendsSetMode :
    let s := hosting .idle .setMode .poweringUp []
    s.inputs = [] ∧ s.seq.state = .idle ∧ s.session.phase = .setMode := by decide

theorem witness_SetupStarts :
    let s := hosting .done .startSetup .configuringMode []
    s.inputs = [] ∧ s.seq.state = .done ∧ s.session.phase = .startSetup := by decide

/-- P2, P3 and their variants: one state for each of the five ends. -/
theorem witness_SetupVerdict :
    let at' := fun ok ready f2 f3 => ended ok ready .awaitSetup .awaitingReady [0x1B00129E, 0x1A0000E6, f2, f3, 0xB1001FE0]
    let id := fun s : State => (frameAt s.res 3).data.extractLsb' 0 8
    let fault := fun s : State => (frameAt s.res 2).data &&& 0x039E
    (at' true true 0x190020ED 0x4100C136).inputs = [] ∧ (at' true true 0x190020ED 0x4100C136).seq.state = .done ∧
    (at' true true 0x190020ED 0x4100C136).session.phase = .awaitSetup ∧
    (id (at' true true 0x190020ED 0x4100C136) = 0xC1 ∧ fault (at' true true 0x190020ED 0x4100C136) = 0) ∧
    (at' false true 0x1900006A 0x4100001E).res.ok = false ∧
    (at' true false 0x1900006A 0x4100C136).chipReady = false ∧
    id (at' true true 0x1900006A 0x4100001E) ≠ 0xC1 ∧
    (id (at' true true 0x19000250 0x4100C136) = 0xC1 ∧ fault (at' true true 0x19000250 0x4100C136) ≠ 0) := by decide +kernel

theorem witness_RefreshStarts :
    let s := fun st => hosting .done .idle st [.refreshState]
    (s .ready).inputs = [] ∧ (s .ready).seq.state = .done ∧ (s .ready).session.phase = .idle ∧
    (s .ready).session.pending = .refreshState :: [] ∧ (s .ready).session.state = .ready ∧
    (s .faulted).session.state ≠ .ready := by decide

/-- P4 and P5; and a status that is not usable under FAULT_ON_STEADY_STATUS = true. -/
theorem witness_RefreshFinish :
    let s := fun ok f3 => ended ok true .awaitRefresh .ready [0x2512345A, 0x29FFFFC7, 0x2D80008D, f3]
    (s true 0x190020ED).inputs = [] ∧ (s true 0x190020ED).seq.state = .done ∧
    (s true 0x190020ED).session.phase = .awaitRefresh ∧ (s true 0x190020ED).res.ok = true ∧
    (s false 0x190020ED).res.ok = false ∧ (frameAt (s true 0x1B00129E).res 3).data &&& 0x039E ≠ 0 ∧
    Config.faultOnSteadyStatus { config none with faultOnSteadyStatus := true } = true := by decide +kernel

theorem witness_Identity :
    let s := hosting .idle .idle .uninitialized [.checkChipsetID]
    let t := ended true true .awaitIdentity .uninitialized [0x4100C136]
    (s.inputs = [] ∧ s.seq.state = .idle ∧ s.session.phase = .idle ∧ s.session.pending = .checkChipsetID :: []) ∧
    (t.inputs = [] ∧ t.seq.state = .done ∧ t.session.phase = .awaitIdentity ∧ t.res.ok = true ∧ t.chipReady = true ∧
      (frameAt t.res 0).data.extractLsb' 0 8 = 0xC1) := by decide +kernel

end Sys2Proof.Tests
end

-- The CRC-8 engine: the affine law of R98 and the statements that follow from it.
section
/-! PROOFS. crc8 is affine over XOR because its step is linear (`crcStep_xor`): the XOR form of R98 is the affine
law applied once per message bit. -/

namespace Sys2Proof.Proofs
open Sys2Proof Sys2Proof.Machine

/-! ### The message bits only -/

/-- The mask of R95 keeps every message bit. -/
theorem getLsbD_and_messageMask (w : Word) {i : Nat} (h8 : 8 ≤ i) (h32 : i < 32) :
    (w &&& 0xFFFFFF00).getLsbD i = w.getLsbD i := by
  have hmask : ∀ i < 32, 8 ≤ i → (0xFFFFFF00 : Word).getLsbD i = true := by decide
  rw [BitVec.getLsbD_and, hmask i h32 h8, Bool.and_true]

/-- Settles O1: the masked word has the same message bits. -/
theorem crcIgnoresTheLowByte : Obligations.CrcIgnoresTheLowByte :=
  fun w => crc8_congr fun _ h8 h32 => (getLsbD_and_messageMask w h8 h32).symm

/-! ### The affine law -/

/-- Running the engine on the XOR of two bit sequences from the XOR of two accumulators. -/
theorem foldl_crcStep_map_xor (f g : Nat → Bool) (l : List Nat) (a b : Byte) :
    (l.map fun j => f j ^^ g j).foldl crcStep (a ^^^ b) =
      (l.map f).foldl crcStep a ^^^ (l.map g).foldl crcStep b := by
  induction l generalizing a b with
  | nil => rfl
  | cons j l ih => simp only [List.map_cons, List.foldl_cons, crcStep_xor, ih]

/-- The engine over the message bits is linear in the start value and the word together. -/
theorem foldl_messageBits_xor (u v : Word) (a b : Byte) :
    (messageBits (u ^^^ v)).foldl crcStep (a ^^^ b) =
      (messageBits u).foldl crcStep a ^^^ (messageBits v).foldl crcStep b := by
  simp only [messageBits, BitVec.getLsbD_xor, foldl_crcStep_map_xor]

/-- The start value 0xFF is the XOR of three copies of itself, so three runs of the engine combine into one. -/
theorem crcAcc_xor (u v : Word) : crcAcc (u ^^^ v) = crcAcc u ^^^ crcAcc v ^^^ crcAcc 0 := by
  unfold crcAcc
  rw [← foldl_messageBits_xor, ← foldl_messageBits_xor, BitVec.xor_self, BitVec.zero_xor]
  exact congrArg (fun x => (messageBits x).foldl crcStep 0xFF) (BitVec.xor_zero).symm

/-- The constant of R98. -/
theorem crc8_zero : crc8 0 = 0xF1 := by decide +kernel

/-- The affine law of R98. -/
theorem crc8_xor (u v : Word) : crc8 (u ^^^ v) = crc8 u ^^^ crc8 v ^^^ 0xF1 := by
  have hregroup (a b c m : Byte) :
      (a ^^^ b ^^^ c) ^^^ (m ^^^ m ^^^ m) = (a ^^^ m) ^^^ (b ^^^ m) ^^^ (c ^^^ m) := by ac_rfl
  calc crc8 (u ^^^ v)
    _ = (crcAcc u ^^^ crcAcc v ^^^ crcAcc 0) ^^^ (0xFF ^^^ 0xFF ^^^ 0xFF) :=
      congrArg (· ^^^ 0xFF) (crcAcc_xor u v)
    _ = crc8 u ^^^ crc8 v ^^^ crc8 0 := hregroup ..
    _ = crc8 u ^^^ crc8 v ^^^ 0xF1 := by rw [crc8_zero]

/-- With its constant taken off, `crc8` is linear. -/
theorem crc8_xor_const (u v : Word) : crc8 (u ^^^ v) ^^^ 0xF1 = (crc8 u ^^^ 0xF1) ^^^ (crc8 v ^^^ 0xF1) := by
  rw [crc8_xor]; ac_rfl

/-! ### The table and the XOR form -/

/-- The table of R98 holds the contribution of each message bit. -/
theorem crcContribution_eq {b : Nat} (h8 : 8 ≤ b) (h32 : b < 32) :
    crcContribution b = crc8 ((1 : Word) <<< b) ^^^ 0xF1 := by
  have htable : ∀ b < 32, 8 ≤ b → crcContribution b = crc8 ((1 : Word) <<< b) ^^^ 0xF1 := by decide +kernel
  exact htable b h32 h8

/-- Add to `u` the message bit `j` of `w`, which stands at position `j + 8`. -/
def addMessageBit (w u : Word) (j : Nat) : Word := if w.getLsbD (j + 8) then u ^^^ (1 : Word) <<< (j + 8) else u

/-- Adding a message bit adds its contribution. -/
theorem crc8_addMessageBit (w u : Word) (j : Nat) :
    crc8 (addMessageBit w u j) ^^^ 0xF1 =
      if w.getLsbD (j + 8) then (crc8 u ^^^ 0xF1) ^^^ crcContribution (j + 8) else crc8 u ^^^ 0xF1 := by
  unfold addMessageBit
  split
  case isTrue hbit => rw [crc8_xor_const, crcContribution_eq (by omega) (BitVec.lt_of_getLsbD hbit)]
  case isFalse => rfl

/-- The XOR network computes `crc8`, without its constant, of the word built from the message bits one by one. -/
theorem crcXorNetwork_eq_foldl (w : Word) :
    crcXorNetwork w = crc8 ((List.range 24).foldl (addMessageBit w) 0) ^^^ 0xF1 := by
  have hstart : (0 : Byte) = crc8 0 ^^^ 0xF1 := by rw [crc8_zero, BitVec.xor_self]; rfl
  unfold crcXorNetwork
  rw [hstart]
  exact List.foldl_hom (fun u => crc8 u ^^^ 0xF1) fun u j => (crc8_addMessageBit w u j).symm

/-- Adding the message bit `j` flips position `j + 8`, and only if `w` has a 1 there. -/
theorem getLsbD_addMessageBit (w u : Word) (j i : Nat) :
    (addMessageBit w u j).getLsbD i = (u.getLsbD i ^^ (decide (i = j + 8) && w.getLsbD i)) := by
  unfold addMessageBit
  split
  case isTrue hbit =>
    have hlt : j + 8 < 32 := BitVec.lt_of_getLsbD hbit
    have hpow : ((1 : Word) <<< (j + 8)).getLsbD i = decide (i = j + 8) :=
      (BitVec.getLsbD_twoPow (j + 8) i).trans (by simp [hlt, eq_comm])
    rw [BitVec.getLsbD_xor, hpow]
    by_cases h : i = j + 8 <;> simp [h, hbit]
  case isFalse hbit => by_cases h : i = j + 8 <;> simp [h, hbit]

/-- After `n` message bits, the word built holds bits 8 to `n + 7` of `w`. -/
theorem getLsbD_foldl_addMessageBit (w : Word) (n i : Nat) :
    ((List.range n).foldl (addMessageBit w) 0).getLsbD i = (decide (8 ≤ i ∧ i < n + 8) && w.getLsbD i) := by
  induction n with
  | zero =>
    have hnone : ¬(8 ≤ i ∧ i < 0 + 8) := by omega
    simp [hnone]
  | succ n ih =>
    rw [List.range_succ, List.foldl_append, List.foldl_cons, List.foldl_nil, getLsbD_addMessageBit, ih,
      ← Bool.and_xor_distrib_right]
    congr 1
    grind

/-- The XOR form of R98: the word built from all 24 message bits has the message bits of `w`. -/
theorem crc8_eq_crcXorNetwork (w : Word) : crc8 w = 0xF1 ^^^ crcXorNetwork w := by
  have hbits : crc8 ((List.range 24).foldl (addMessageBit w) 0) = crc8 w :=
    crc8_congr fun _ h8 h32 => by rw [getLsbD_foldl_addMessageBit, decide_eq_true ⟨h8, h32⟩, Bool.true_and]
  rw [crcXorNetwork_eq_foldl, hbits, BitVec.xor_comm (crc8 w), ← BitVec.xor_assoc, BitVec.xor_self, BitVec.zero_xor]

/-- Settles O3: the affine law, its constant, the table and the XOR form. -/
theorem crcIsAffineOverXor : Obligations.CrcIsAffineOverXor :=
  ⟨crc8_xor, crc8_zero, fun _ => crcContribution_eq, crc8_eq_crcXorNetwork⟩

end Sys2Proof.Proofs
end

-- The frame codec: fields and bytes as arithmetic on the word, the round trips of R115 and R118, and the verdict.
section
/-! PROOFS. A word, its four bytes and its five fields are read as numbers: `assemble` and `wordOfBytes` are sums of
shifted parts, so taking a part back out is arithmetic. `encodeFields` is `assemble` with the checksum of its own
word. -/

namespace Sys2Proof.Proofs
open Sys2Proof Sys2Proof.Machine

/-- The number a concatenation stands for. -/
theorem toNat_append_eq_add {m n : Nat} (x : BitVec m) (y : BitVec n) :
    (x ++ y).toNat = x.toNat * 2 ^ n + y.toNat := by
  rw [BitVec.toNat_append, ← Nat.shiftLeft_add_eq_or_of_lt y.isLt, Nat.shiftLeft_eq]

/-- The number a field of a word stands for. -/
theorem toNat_extractLsb'_eq_div_mod {m : Nat} (x : BitVec m) (start len : Nat) :
    (x.extractLsb' start len).toNat = x.toNat / 2 ^ start % 2 ^ len := by
  rw [BitVec.extractLsb'_toNat, Nat.shiftRight_eq_div_pow]

/-! ### Bytes and words (R115) -/

/-- The first byte is the most significant one. -/
theorem toNat_wordOfBytes (b0 b1 b2 b3 : Byte) :
    (wordOfBytes b0 b1 b2 b3).toNat = b0.toNat * 2 ^ 24 + b1.toNat * 2 ^ 16 + b2.toNat * 2 ^ 8 + b3.toNat := by
  unfold wordOfBytes
  rw [toNat_append_eq_add, toNat_append_eq_add, toNat_append_eq_add]
  omega

/-- Reading the bytes of a word put together from four bytes. -/
theorem bytesOfWord_wordOfBytes (b0 b1 b2 b3 : Byte) : bytesOfWord (wordOfBytes b0 b1 b2 b3) = [b0, b1, b2, b3] := by
  have hword := toNat_wordOfBytes b0 b1 b2 b3
  have hbyte {start : Nat} {b : Byte} (h : (wordOfBytes b0 b1 b2 b3).toNat / 2 ^ start % 2 ^ 8 = b.toNat) :
      (wordOfBytes b0 b1 b2 b3).extractLsb' start 8 = b :=
    BitVec.eq_of_toNat_eq ((toNat_extractLsb'_eq_div_mod ..).trans h)
  rw [bytesOfWord, hbyte (b := b0) (by omega), hbyte (b := b1) (by omega), hbyte (b := b2) (by omega),
    hbyte (b := b3) (by omega)]

/-- Putting the four bytes of a word together again. -/
theorem wordOfBytes_extractLsb' (w : Word) :
    wordOfBytes (w.extractLsb' 24 8) (w.extractLsb' 16 8) (w.extractLsb' 8 8) (w.extractLsb' 0 8) = w := by
  refine BitVec.eq_of_toNat_eq ?_
  simp only [toNat_wordOfBytes, toNat_extractLsb'_eq_div_mod]
  omega

/-- Settles O10: the two byte orders undo each other, and the word is the number its bytes stand for. -/
theorem bytesAndWordsAreInverse : Obligations.BytesAndWordsAreInverse := by
  refine ⟨bytesOfWord_wordOfBytes, fun w => ⟨_, _, _, _, rfl, wordOfBytes_extractLsb' w, ?_⟩⟩
  rw [← toNat_wordOfBytes, wordOfBytes_extractLsb']

/-! ### The fields of a word (R111, R112) -/

theorem toNat_rdField (w : Word) : (rdField w).toNat = w.toNat / 2 ^ 31 := by
  rw [rdField, toNat_extractLsb'_eq_div_mod]
  omega

theorem toNat_addrField (w : Word) : (addrField w).toNat = w.toNat / 2 ^ 26 % 2 ^ 5 :=
  toNat_extractLsb'_eq_div_mod w 26 5

theorem toNat_rsField (w : Word) : (rsField w).toNat = w.toNat / 2 ^ 24 % 2 ^ 2 :=
  toNat_extractLsb'_eq_div_mod w 24 2

theorem toNat_dataField (w : Word) : (dataField w).toNat = w.toNat / 2 ^ 8 % 2 ^ 16 :=
  toNat_extractLsb'_eq_div_mod w 8 16

theorem toNat_crcField (w : Word) : (crcField w).toNat = w.toNat % 2 ^ 8 := by
  rw [crcField, toNat_extractLsb'_eq_div_mod, Nat.pow_zero, Nat.div_one]

/-- The flag is set when the checksum disagrees (R112). -/
theorem crcErrorOf_eq_true_iff (w : Word) : crcErrorOf w = true ↔ crc8 w ≠ crcField w := bne_iff_ne

/-- The flag is clear when the checksum agrees (R112). -/
theorem crcErrorOf_eq_false_iff (w : Word) : crcErrorOf w = false ↔ crc8 w = crcField w := bne_eq_false_iff_eq

/-- Settles O9: each field as the number its bits stand for, and the flag as the test of the checksum. -/
theorem decodeTakesFieldsAndComputesTheFlag : Obligations.DecodeTakesFieldsAndComputesTheFlag :=
  fun w => ⟨toNat_rdField w, toNat_addrField w, toNat_rsField w, toNat_dataField w, toNat_crcField w,
    crcErrorOf_eq_true_iff w⟩

/-! ### The word of five fields (R63) -/

section Assemble
variable (rd : BitVec 1) (addr : BitVec 5) (rs : BitVec 2) (data : Half) (crc crc' : Byte)

theorem toNat_assemble : (assemble rd addr rs data crc).toNat =
    rd.toNat * 2 ^ 31 + addr.toNat * 2 ^ 26 + rs.toNat * 2 ^ 24 + data.toNat * 2 ^ 8 + crc.toNat := by
  unfold assemble
  rw [toNat_append_eq_add, toNat_append_eq_add, toNat_append_eq_add, toNat_append_eq_add]
  omega

/-- The checksum field of an assembled word. -/
@[simp] theorem crcField_assemble : crcField (assemble rd addr rs data crc) = crc := by
  refine BitVec.eq_of_toNat_eq ?_
  rw [toNat_crcField, toNat_assemble]
  omega

/-- Decoding an assembled word gives its fields back. -/
theorem decodeFrame_assemble : decodeFrame (assemble rd addr rs data crc) =
    { rd := rd, addr := addr, rs := rs, data := data, crc := crc,
      crcError := crcErrorOf (assemble rd addr rs data crc) } := by
  have hword := toNat_assemble rd addr rs data crc
  have hrd : rdField (assemble rd addr rs data crc) = rd :=
    BitVec.eq_of_toNat_eq (by rw [toNat_rdField]; omega)
  have haddr : addrField (assemble rd addr rs data crc) = addr :=
    BitVec.eq_of_toNat_eq (by rw [toNat_addrField]; omega)
  have hrs : rsField (assemble rd addr rs data crc) = rs :=
    BitVec.eq_of_toNat_eq (by rw [toNat_rsField]; omega)
  have hdata : dataField (assemble rd addr rs data crc) = data :=
    BitVec.eq_of_toNat_eq (by rw [toNat_dataField]; omega)
  simp only [decodeFrame, hrd, haddr, hrs, hdata, crcField_assemble]

/-- `crc8` does not see the checksum field (R95). -/
theorem crc8_assemble : crc8 (assemble rd addr rs data crc) = crc8 (assemble rd addr rs data crc') := by
  refine crc8_congr fun i h8 _ => ?_
  have hupper : ¬ i < 8 := by omega
  simp only [assemble, BitVec.getLsbD_append, hupper, if_false]

/-- The shift-and-or form of R117 is the concatenation of R63 with a checksum field of zero. -/
theorem assemble_zero : assemble rd addr rs data 0 =
    (rd.setWidth 32 <<< 31) ||| (addr.setWidth 32 <<< 26) ||| (rs.setWidth 32 <<< 24)
      ||| (data.setWidth 32 <<< 8) := by
  refine BitVec.eq_of_getLsbD_eq fun i hi => ?_
  simp only [assemble, BitVec.getLsbD_append, BitVec.getLsbD_or, BitVec.getLsbD_shiftLeft, BitVec.getLsbD_setWidth]
  grind

/-- A checksum field of zero is filled by OR. -/
theorem assemble_eq_or : assemble rd addr rs data crc = assemble rd addr rs data 0 ||| crc.setWidth 32 := by
  refine BitVec.eq_of_getLsbD_eq fun i hi => ?_
  simp only [assemble, BitVec.getLsbD_append, BitVec.getLsbD_or, BitVec.getLsbD_setWidth]
  grind

/-! ### The round trips (R118) -/

/-- `encode_fields` assembles its fields with their checksum, which any checksum field gives alike. -/
theorem encodeFields_eq_assemble :
    encodeFields rd addr rs data = assemble rd addr rs data (crc8 (assemble rd addr rs data crc)) :=
  calc encodeFields rd addr rs data
    _ = assemble rd addr rs data 0 ||| (crc8 (assemble rd addr rs data 0)).setWidth 32 := by
      rw [assemble_zero]; rfl
    _ = assemble rd addr rs data (crc8 (assemble rd addr rs data 0)) := (assemble_eq_or ..).symm
    _ = assemble rd addr rs data (crc8 (assemble rd addr rs data crc)) := by rw [crc8_assemble]

/-- The checksum field of `encode_fields` is the checksum of the whole word. -/
theorem encodeFields_eq_assemble_crc8 :
    encodeFields rd addr rs data = assemble rd addr rs data (crc8 (encodeFields rd addr rs data)) := by
  conv_rhs => rw [encodeFields_eq_assemble rd addr rs data 0]
  exact encodeFields_eq_assemble ..

/-- Decoding an encoding gives the fields back, and no CRC error. -/
theorem decodeFrame_encodeFields : decodeFrame (encodeFields rd addr rs data) =
    { rd := rd, addr := addr, rs := rs, data := data, crc := crc8 (encodeFields rd addr rs data),
      crcError := false } := by
  have hword := encodeFields_eq_assemble_crc8 rd addr rs data
  have hcrc : crcField (encodeFields rd addr rs data) = crc8 (encodeFields rd addr rs data) :=
    (congrArg crcField hword).trans (crcField_assemble ..)
  have hflag : crcErrorOf (encodeFields rd addr rs data) = false := (crcErrorOf_eq_false_iff _).mpr hcrc.symm
  calc decodeFrame (encodeFields rd addr rs data)
    _ = decodeFrame (assemble rd addr rs data (crc8 (encodeFields rd addr rs data))) := congrArg decodeFrame hword
    _ = _ := by rw [decodeFrame_assemble, ← hword, hflag]

end Assemble

/-- A word is assembled from its own five fields. -/
theorem assemble_fields (w : Word) :
    assemble (rdField w) (addrField w) (rsField w) (dataField w) (crcField w) = w :=
  frameWord_decodeFrame w

/-- Encoding the first four fields of a word replaces its checksum field. -/
theorem encodeFields_fields (w : Word) : encodeFields (rdField w) (addrField w) (rsField w) (dataField w) =
    assemble (rdField w) (addrField w) (rsField w) (dataField w) (crc8 w) := by
  rw [encodeFields_eq_assemble _ _ _ _ (crcField w), assemble_fields]

/-- The words without CRC error are the encodings of their own fields. -/
theorem crcErrorOf_eq_false_iff_eq_encodeFields (w : Word) :
    crcErrorOf w = false ↔ w = encodeFields (rdField w) (addrField w) (rsField w) (dataField w) := by
  rw [crcErrorOf_eq_false_iff, encodeFields_fields]
  constructor
  · intro hcrc
    rw [hcrc, assemble_fields]
  · intro hword
    exact ((congrArg crcField hword).trans (crcField_assemble ..)).symm

/-- Every word of a table that satisfies R67 is free of CRC error. -/
theorem crcErrorOf_cmdWord {T : CmdTab} (hT : T.checksummed = true) {c : Instr} (hc : c.listable = true) :
    crcErrorOf (cmdWord T c) = false := by
  have hmem : c ∈ commands := by cases c <;> simp [commands, Instr.listable] at hc ⊢
  exact (crcErrorOf_eq_false_iff _).mpr (beq_iff_eq.mp (List.all_eq_true.mp hT c hmem))

/-- Settles O11: both round trips, and the table's words as encodings of their fields. -/
theorem decodeAndEncodeFieldsRoundTrip : Obligations.DecodeAndEncodeFieldsRoundTrip :=
  ⟨decodeFrame_encodeFields, crcErrorOf_eq_false_iff_eq_encodeFields,
    fun _ hT _ hc => (crcErrorOf_eq_false_iff_eq_encodeFields _).mp (crcErrorOf_cmdWord hT hc)⟩

/-! ### The verdict (R121) -/

section Verdict
variable {T : CmdTab} {f : Frame} {c : Instr}

theorem verdict_of_crcError (h : f.crcError = true) : verdict T f c = .crcError := if_pos h

theorem verdict_of_addr_ne (h : f.crcError = false) (ha : f.addr ≠ requestAddr T c) :
    verdict T f c = .addressMismatch := by
  rw [verdict, h, if_neg Bool.false_ne_true, if_pos ha]

theorem verdict_of_addr_eq (h : f.crcError = false) (ha : f.addr = requestAddr T c) : verdict T f c = .valid := by
  rw [verdict, h, if_neg Bool.false_ne_true, if_neg (not_not_intro ha)]

end Verdict

/-- Settles O13: one lemma for each of the three tags. -/
theorem verdictChecksChecksumThenAddress : Obligations.VerdictChecksChecksumThenAddress :=
  fun _ _ _ => ⟨verdict_of_crcError, verdict_of_addr_ne, verdict_of_addr_eq⟩

end Sys2Proof.Proofs
end

-- The sequencer: refused starts, and the rows RESET and FLUSH.
section
/-! PROOFS. A refused start lands as a quiet input does (R164), and the step of a row is that row's own operation
(R152, R154), whose next state the statements write out. -/

namespace Sys2Proof.Proofs
open Sys2Proof Sys2Proof.Machine

/-! ### Refused starts (R164) -/

/-- One reserved selector spoils the whole list. -/
theorem commandsOfSelectors_eq_none_of_mem {L : List Selector} (h : (7 : Selector) ∈ L) :
    commandsOfSelectors L = none := by
  induction L with
  | nil => exact absurd h List.not_mem_nil
  | cons x xs ih =>
    rcases List.mem_cons.mp h with rfl | hxs
    · rw [commandsOfSelectors, commandOfSelector_seven]
    · simp [commandsOfSelectors, ih hxs]

/-- Each of the three cases of R164 contradicts what an accepted start needs. -/
theorem presentStart_eq_none {C : Config} {L : List Selector} {s : State}
    (h : busy s = true ∨ C.nMax < L.length ∨ (7 : Selector) ∈ L) : presentStart C L s = none := by
  refine Option.eq_none_iff_forall_ne_some.mpr fun t ht => ?_
  obtain ⟨hfree, hlen, cs, hcs, -⟩ := presentStart_eq_some.mp ht
  rcases h with hbusy | hlong | hseven
  · exact Bool.false_ne_true (hfree.symm.trans hbusy)
  · exact hlong.not_ge hlen
  · exact Option.some_ne_none cs (hcs.symm.trans (commandsOfSelectors_eq_none_of_mem hseven))

/-- A refused start leaves the row for the state to apply, whether or not the host is free. -/
theorem landInput_of_refused_start {C : Config} {s : State} {L : List Selector} {rest : List Input}
    (hi : s.inputs = .start L :: rest) (hr : presentStart C L (s.setInputs rest) = none) :
    landInput C s = (s.setInputs rest, false) := by
  cases hf : hostFree s with
  | false => exact landInput_start_of_not_free hi hf
  | true => simp [landInput, hi, hf, hr]

/-- Settles O29: both inputs land as the same state, with the row still to apply. -/
theorem refusedStartIsNoStart : Obligations.RefusedStartIsNoStart := by
  intro s L rest hi h
  have hrefused : presentStart machineConfig L (s.setInputs rest) = none := presentStart_eq_none h
  have hquiet : landInput machineConfig { s with inputs := .quiet :: rest } = (s.setInputs rest, false) := rfl
  unfold step
  rw [landInput_of_refused_start hi hrefused, hquiet]

/-! ### The rows FLUSH and RESET -/

/-- Settles O21: FLUSH is the one state in which the flush has an effect. -/
theorem flushTransmitsAndBeginsTheWait : Obligations.FlushTransmitsAndBeginsTheWait := by
  intro s hs
  rcases flushRow_cases machineConfig.cmdTab s with ⟨-, hrow⟩ | ⟨hne, -⟩
  · exact hrow
  · exact absurd hs hne

/-- With no input due, in RESET the step is the RESET row. -/
theorem step_of_reset {s : State} (hi : s.inputs = []) (hs : s.seq.state = .reset) :
    step s = .next (resetRow s) := by
  have hfetch : fetch s = none := by simp [fetch, hs]
  rw [step_of_no_input hi, innerStep_of_none hfetch]
  simp [plainStep, hs]

/-- Settles O31: the RESET row is one `TReset`, then the choice between SEND and FLUSH. -/
theorem resetRowClearsTheTransport : Obligations.ResetRowClearsTheTransport :=
  fun _ hi hs => step_of_reset hi hs

end Sys2Proof.Proofs
end

-- The status decoder: the conditions bit by bit, and the usable verdict as the mask of the reboot-forcing bits.
section
/-! PROOFS. `REBOOT_MASK` has a 1 exactly at the bits of the reboot-forcing conditions (`getLsbD_rebootMask`,
`exists_conditionBit_of_getLsbD_rebootMask`): every statement about `usable` goes through these two facts. -/

namespace Sys2Proof.Proofs
open Sys2Proof Sys2Proof.Machine

/-! ### The conditions (R201) -/

theorem mem_allConditions (c : Condition) : c ∈ allConditions := by cases c <;> decide

theorem conditionBit_lt (c : Condition) : conditionBit c < 10 := by cases c <;> decide

/-- A condition is reported exactly when its bit is 1. -/
@[simp] theorem mem_conditions_statusDecode {d : Half} {c : Condition} :
    c ∈ (statusDecode d).conditions ↔ d.getLsbD (conditionBit c) = true :=
  List.mem_filter.trans (and_iff_right (mem_allConditions c))

/-! ### The mask of the reboot-forcing bits (R202, R206) -/

theorem usable_statusDecode_iff {d : Half} : (statusDecode d).usable = true ↔ d &&& rebootMask = 0 := beq_iff_eq

/-- At the bit of a condition, the mask says whether the condition forces a reboot. -/
@[simp] theorem getLsbD_rebootMask (c : Condition) : rebootMask.getLsbD (conditionBit c) = forcesReboot c := by
  cases c <;> rfl

/-- The mask has no other bits. -/
theorem exists_conditionBit_of_getLsbD_rebootMask {i : Nat} (h : rebootMask.getLsbD i = true) :
    ∃ c, conditionBit c = i := by
  have htable : ∀ i < 16, rebootMask.getLsbD i = true → ∃ c ∈ allConditions, conditionBit c = i := by decide
  obtain ⟨c, -, hc⟩ := htable i (BitVec.lt_of_getLsbD h) h
  exact ⟨c, hc⟩

/-- The mask test passes exactly if the bit of no reboot-forcing condition is 1. -/
theorem and_rebootMask_eq_zero_iff {d : Half} :
    d &&& rebootMask = 0 ↔ ∀ c, d.getLsbD (conditionBit c) = true → forcesReboot c = false := by
  constructor
  · intro h c hbit
    have hmasked : (d &&& rebootMask).getLsbD (conditionBit c) = false := by rw [h]; exact BitVec.getLsbD_zero
    rwa [BitVec.getLsbD_and, hbit, Bool.true_and, getLsbD_rebootMask] at hmasked
  · intro h
    refine BitVec.eq_of_getLsbD_eq fun i _ => Eq.trans ?_ BitVec.getLsbD_zero.symm
    refine Bool.eq_false_iff.mpr fun hboth => ?_
    obtain ⟨hbit, hmask⟩ := (Bool.and_eq_true ..).mp (BitVec.getLsbD_and.symm.trans hboth)
    obtain ⟨c, rfl⟩ := exists_conditionBit_of_getLsbD_rebootMask hmask
    exact Bool.false_ne_true ((h c hbit).symm.trans ((getLsbD_rebootMask c).symm.trans hmask))

/-- Usable exactly if every condition reported is one that does not force a reboot. -/
theorem usable_statusDecode_iff_forall {d : Half} :
    (statusDecode d).usable = true ↔ ∀ c ∈ (statusDecode d).conditions, forcesReboot c = false := by
  simp only [usable_statusDecode_iff, and_rebootMask_eq_zero_iff, mem_conditions_statusDecode]

/-- The bit of a reboot-forcing condition alone makes the status not usable. -/
theorem usable_statusDecode_of_forcesReboot {d : Half} {c : Condition} (hf : forcesReboot c = true)
    (hc : c ∈ (statusDecode d).conditions) : (statusDecode d).usable = false :=
  Bool.eq_false_iff.mpr fun hu =>
    Bool.false_ne_true ((usable_statusDecode_iff_forall.mp hu c hc).symm.trans hf)

/-- Masking distributes over XOR. -/
theorem xor_and_distrib_right {n : Nat} (x y m : BitVec n) : (x ^^^ y) &&& m = (x &&& m) ^^^ (y &&& m) :=
  BitVec.eq_of_getLsbD_eq fun _ _ => by
    simp only [BitVec.getLsbD_and, BitVec.getLsbD_xor, Bool.and_xor_distrib_right]

/-- Flipping the bit of a condition that does not force a reboot leaves the verdict alone. -/
theorem usable_statusDecode_xor_twoPow (d : Half) {c : Condition} (hf : forcesReboot c = false) :
    (statusDecode (d ^^^ BitVec.twoPow 16 (conditionBit c))).usable = (statusDecode d).usable := by
  have hunmasked : BitVec.twoPow 16 (conditionBit c) &&& rebootMask = 0 := by simp [BitVec.twoPow_and, hf]
  have hmasked : (d ^^^ BitVec.twoPow 16 (conditionBit c)) &&& rebootMask = d &&& rebootMask := by
    rw [xor_and_distrib_right, hunmasked]
    exact BitVec.xor_zero
  exact congrArg (· == 0) hmasked

/-! ### The low ten bits (R204) -/

/-- The decoder reads bits 9 to 0 only. -/
theorem statusDecode_and_lowTenBits (d : Half) : statusDecode (d &&& 0x03FF) = statusDecode d := by
  have hlow : ∀ i < 10, (0x03FF : Half).getLsbD i = true := by decide
  have hbit (c : Condition) : (d &&& 0x03FF).getLsbD (conditionBit c) = d.getLsbD (conditionBit c) := by
    rw [BitVec.getLsbD_and, hlow _ (conditionBit_lt c), Bool.and_true]
  have hmask : d &&& 0x03FF &&& rebootMask = d &&& rebootMask := BitVec.and_assoc ..
  simp only [statusDecode, hbit, hmask]

/-! ### The two statements -/

/-- Settles O50: the table's rows are the conditions with their bits and their force, in the model's order. -/
theorem statusBitsReportTheirConditions : Obligations.StatusBitsReportTheirConditions := by
  intro d c n forces hrow
  change _ ∈ allConditions.map fun c => (c, conditionBit c, forcesReboot c) at hrow
  obtain ⟨c, -, hrow⟩ := List.mem_map.mp hrow
  cases hrow
  exact ⟨mem_conditions_statusDecode,
    fun hforces hbit => usable_statusDecode_of_forcesReboot hforces (mem_conditions_statusDecode.mpr hbit),
    fun hforces => (usable_statusDecode_xor_twoPow d hforces).symm⟩

/-- Settles O51: by the conditions, by the mask, and by the low ten bits alone. -/
theorem usableIffNoRebootForcingCondition : Obligations.UsableIffNoRebootForcingCondition := by
  intro d
  refine ⟨usable_statusDecode_iff_forall, usable_statusDecode_iff, ?_, fun e hlow => ?_⟩
  · rw [needsReboot, Bool.not_eq_true', Bool.not_eq_true]
  · calc statusDecode d
      _ = statusDecode (d &&& 0x03FF) := (statusDecode_and_lowTenBits d).symm
      _ = statusDecode (e &&& 0x03FF) := congrArg statusDecode hlow
      _ = statusDecode e := statusDecode_and_lowTenBits e

end Sys2Proof.Proofs
end

-- The host session: the angle conversion, the phases of setup, and the begin of a refresh.
section
/-! PROOFS. With no input due and no transaction running a step is the host's action of its phase: the statements
are one lemma per action, chosen by the phase (R212 to R216) or by the operation asked for (R218, R224, R225). -/

namespace Sys2Proof.Proofs
open Sys2Proof Sys2Proof.Machine

/-! ### The angle conversion (R219) -/

section Degrees
variable (d e : Half)

/-- The numerator as a product of rationals. -/
theorem degrees_eq : degrees d = (d.toNat : Rat) * 90 / 16384 := by
  rw [degrees, Nat.cast_mul, Nat.cast_ofNat]

theorem degrees_mul : degrees d * 16384 = (d.toNat : Rat) * 90 := by
  rw [degrees_eq, div_mul_cancel₀ _ (by norm_num)]

theorem degrees_nonneg : 0 ≤ degrees d := by
  rw [degrees_eq]
  positivity

/-- The numerator is at most that of the largest payload, 65535. -/
theorem toNat_mul_le : d.toNat * 90 ≤ 5898150 := by
  have := d.isLt
  omega

theorem degrees_le : degrees d ≤ 5898150 / 16384 :=
  div_le_div_of_nonneg_right (mod_cast toNat_mul_le d) (by norm_num)

/-- The conversion keeps the unsigned order. -/
theorem degrees_lt_degrees_iff : degrees d < degrees e ↔ d.toNat < e.toNat := by
  rw [degrees_eq, degrees_eq, div_lt_div_iff_of_pos_right (by norm_num), mul_lt_mul_iff_left₀ (by norm_num),
    Nat.cast_lt]

end Degrees

/-- Settles O52: the bounds follow from `d.toNat < 65536`. -/
theorem degreesAreExactAndUnsigned : Obligations.DegreesAreExactAndUnsigned := by
  have hquarter : (0x4000 : Half).toNat = 16384 := rfl
  refine ⟨fun d => ⟨degrees_mul d, degrees_nonneg d, degrees_le d, ?_⟩, degrees_lt_degrees_iff, ?_, ?_⟩
  · exact (toNat_mul_le d).trans_lt (by norm_num)
  · norm_num [degrees_eq, hquarter]
  · norm_num [degrees_eq]

/-! ### The host's turn -/

section Turn
variable {C : Config} {s : State}

/-- Between two operations, the host begins the first one asked for. -/
theorem hostStep_of_pending {op : HostOp} {rest : List HostOp} (hp : s.session.phase = .idle)
    (hreq : s.session.pending = op :: rest) :
    hostStep C s = beginOp C op (s.setSession { s.session with pending := rest }) := by
  simp only [hostStep, hp, takeRequest, hreq]

theorem hostStep_of_configure (hp : s.session.phase = .configure) : hostStep C s = setupConfigure C s := by
  simp only [hostStep, hp]

theorem hostStep_of_setMode (hp : s.session.phase = .setMode) : hostStep C s = setupSetMode C s := by
  simp only [hostStep, hp]

/-- In DONE the wait of setup is over. -/
theorem hostStep_of_awaitSetup (hs : s.seq.state = .done) (hp : s.session.phase = .awaitSetup) :
    hostStep C s = setupFinish s := by
  simp only [hostStep, hp, awaitDone, hs, if_true]

end Turn

/-! ### setup begins (R212, R213, R224, R227) -/

/-- Settles O53: the begin of setup does not look at the session state. -/
theorem setupBeginsFromAnySessionState : Obligations.SetupBeginsFromAnySessionState := by
  intro s rest hi hs hp hreq
  rw [step_of_idle hi hs, hostStep_of_pending hp hreq]
  rfl

/-- `TConfigure` with a scripted answer makes one call and takes that answer. -/
theorem tConfigure_scripted {bus : BusParams} {s : State} {ok : Bool} {more : List Bool}
    (h : s.env.configure = ok :: more) :
    tConfigure bus s = (ok, (record (.configure bus ok) s).setEnv { s.env with configure := more }) := by
  simp only [tConfigure, nextConfigure, h]

/-- Settles O54: the two answers of `TConfigure`. -/
theorem setupConfiguresTheTransport : Obligations.SetupConfiguresTheTransport := by
  intro s ok more hi hs hp henv
  rw [step_of_idle hi hs, hostStep_of_configure hp, setupConfigure, tConfigure_scripted henv]
  cases ok with
  | true => rfl
  | false => rfl

/-- Settles O55: the one call is a write. -/
theorem setupSendsSetModeByABareWrite : Obligations.SetupSendsSetModeByABareWrite := by
  intro s hi hs hp
  rw [step_of_idle hi hs, hostStep_of_setMode hp]
  rfl

/-! ### The verdict of setup (R215, R216) -/

/-- The identity test reads the low byte alone (R223). -/
theorem identityMatches_iff {f : Frame} : identityMatches f = true ↔ f.data.extractLsb' 0 8 = 0xC1 := beq_iff_eq

section SetupFinish
variable {s : State}

theorem setupFinish_of_not_ok (hok : s.res.ok = false) : setupFinish s = faultSession .communicationError s := by
  simp [setupFinish, hok]

theorem setupFinish_of_not_ready (hok : s.res.ok = true) (hready : s.chipReady = false) :
    setupFinish s = faultSession .readinessTimeout s := by
  simp [setupFinish, hok, hready]

theorem setupFinish_of_identity_ne (hok : s.res.ok = true) (hready : s.chipReady = true)
    (hid : identityMatches (frameAt s.res 3) = false) : setupFinish s = faultSession .identityMismatch s := by
  simp [setupFinish, hok, hready, hid]

theorem setupFinish_of_not_usable (hok : s.res.ok = true) (hready : s.chipReady = true)
    (hid : identityMatches (frameAt s.res 3) = true) (husable : (statusDecode (frameAt s.res 2).data).usable = false) :
    setupFinish s = faultSession .faultBitsSet s := by
  simp [setupFinish, hok, hready, hid, husable]

theorem setupFinish_of_all (hok : s.res.ok = true) (hready : s.chipReady = true)
    (hid : identityMatches (frameAt s.res 3) = true) (husable : (statusDecode (frameAt s.res 2).data).usable = true) :
    setupFinish s = returned .setupOk (s.setSession { s.session with state := .ready }) := by
  simp [setupFinish, hok, hready, hid, husable]

end SetupFinish

/-- Settles O57: one equation of `setupFinish` for each clause. -/
theorem setupVerdictIsTheFirstFailingTest : Obligations.SetupVerdictIsTheFirstFailingTest := by
  intro s hi hs hp id fault fails
  have hstep : step s = .next (setupFinish s) := by
    rw [step_of_idle hi (.inr hs), hostStep_of_awaitSetup hs hp]
  have hfails {c : Cause} (h : setupFinish s = faultSession c s) : fails c := hstep.trans (congrArg _ h)
  refine ⟨fun hok hready hid hfault => ?_, fun hok => ?_, fun hok hready => ?_, fun hok hready hid => ?_,
    fun hok hready hid hfault => ?_⟩
  · exact hstep.trans (congrArg _ <|
      setupFinish_of_all hok hready (identityMatches_iff.mpr hid) (usable_statusDecode_iff.mpr hfault))
  · exact hfails (setupFinish_of_not_ok hok)
  · exact hfails (setupFinish_of_not_ready hok hready)
  · exact hfails (setupFinish_of_identity_ne hok hready (Bool.eq_false_iff.mpr (mt identityMatches_iff.mp hid)))
  · exact hfails (setupFinish_of_not_usable hok hready (identityMatches_iff.mpr hid)
      (Bool.eq_false_iff.mpr (mt usable_statusDecode_iff.mp hfault)))

/-! ### refreshState begins (R218, R225) -/

/-- The refresh transaction is always accepted while none runs: four commands, and `N_MAX` is at least 5. -/
theorem hostStart_refreshCommands {s : State} (hs : s.seq.state = .idle ∨ s.seq.state = .done) :
    hostStart machineConfig refreshCommands s = captureStart refreshCommands s :=
  hostStart_accepted (busy_eq_false.mpr hs) ((by decide : refreshCommands.length ≤ 5).trans five_le_nMax) (by decide)

theorem beginRefresh_of_ready {s : State} (hs : s.seq.state = .idle ∨ s.seq.state = .done)
    (hready : s.session.state = .ready) : beginRefresh machineConfig s =
      (captureStart refreshCommands s).setSession { s.session with phase := .awaitRefresh } := by
  rw [beginRefresh, if_pos hready, hostStart_refreshCommands hs]
  rfl

theorem beginRefresh_of_not_ready {C : Config} {s : State} (hready : s.session.state ≠ .ready) :
    beginRefresh C s = returned .refreshIgnored s := if_neg hready

/-- Settles O58: the request is taken in either case, the start presented in Ready only. -/
theorem refreshStartsInReadyOnly : Obligations.RefreshStartsInReadyOnly := by
  intro s rest hi hs hp hreq
  have hstep : step s = .next (beginRefresh machineConfig (s.setSession { s.session with pending := rest })) := by
    rw [step_of_idle hi hs, hostStep_of_pending hp hreq]
    rfl
  constructor
  · intro hready
    exact hstep.trans (congrArg _ (beginRefresh_of_ready hs hready))
  · intro hready
    exact hstep.trans (congrArg _ (beginRefresh_of_not_ready hready))

end Sys2Proof.Proofs
end

-- The command codec: words, encodings and selectors name the same seven commands.
section
/-! PROOFS. A word decodes to the first command of the list that has it; the words being different, that is the only
one, so decoding and encoding undo each other (R66, R68, R116). The selectors are the positions of that list. -/

namespace Sys2Proof.Proofs
open Sys2Proof Sys2Proof.Machine

/-! ### Words (R66, R68) -/

/-- The list of commands holds every instruction but the flush. -/
theorem mem_commands_iff {i : Instr} : i ∈ commands ↔ i.listable = true := by
  cases i <;> simp [commands, Instr.listable]

/-- What a word decodes to is a command of the list, and has that word. -/
theorem decodeWord_eq_some {T : CmdTab} {w : Word} {i : Instr} (h : decodeWord T w = some i) :
    i.listable = true ∧ cmdWord T i = w :=
  ⟨mem_commands_iff.mp (List.mem_of_find?_eq_some h),
    beq_iff_eq.mp (List.find?_some (p := fun c => cmdWord T c == w) h)⟩

/-- Where the words differ, every command is what its word decodes to: the search finds a command with this word, and
there is no other. -/
theorem decodeWord_cmdWord {T : CmdTab} (hT : (commands.map (cmdWord T)).Nodup) {i : Instr} (hi : i.listable = true) :
    decodeWord T (cmdWord T i) = some i := by
  have hmem : i ∈ commands := mem_commands_iff.mpr hi
  obtain ⟨c, hc⟩ : ∃ c, decodeWord T (cmdWord T i) = some c :=
    Option.isSome_iff_exists.mp (List.find?_isSome.mpr ⟨i, hmem, beq_self_eq_true (cmdWord T i)⟩)
  obtain ⟨hlist, hword⟩ := decodeWord_eq_some hc
  rw [hc, List.inj_on_of_nodup_map hT (mem_commands_iff.mpr hlist) hmem hword]

/-! ### Bytes (R115, R116) -/

/-- The bytes of a word followed by others decode as the word does. -/
theorem decodeBytes_bytesOfWord_append {T : CmdTab} {w : Word} {i : Instr} (h : decodeWord T w = some i)
    (rest : List Byte) : decodeBytes T (bytesOfWord w ++ rest) = .ok (i, rest) := by
  simp only [bytesOfWord, List.cons_append, List.nil_append, decodeBytes, wordOfBytes_extractLsb', h]

/-- Bytes are too few exactly if there are fewer than four; four or more are one word and the rest. -/
theorem decodeBytes_cases (T : CmdTab) (bs : List Byte) :
    (bs.length < 4 ∧ decodeBytes T bs = .error .tooShort) ∨
    (∃ w rest, bs = bytesOfWord w ++ rest ∧
      ((decodeWord T w = none ∧ decodeBytes T bs = .error .notACommand) ∨
       ∃ i, decodeWord T w = some i ∧ decodeBytes T bs = .ok (i, rest))) := by
  match bs with
  | [] | [_] | [_, _] | [_, _, _] => exact .inl ⟨by simp, rfl⟩
  | b0 :: b1 :: b2 :: b3 :: rest =>
    refine .inr ⟨wordOfBytes b0 b1 b2 b3, rest, by rw [bytesOfWord_wordOfBytes]; rfl, ?_⟩
    cases h : decodeWord T (wordOfBytes b0 b1 b2 b3) with
    | none => exact .inl ⟨rfl, by simp only [decodeBytes, h]⟩
    | some i => exact .inr ⟨i, rfl, by simp only [decodeBytes, h]⟩

/-- Whatever decodes is the encoding of what it decodes to. -/
theorem eq_encode_of_decodeBytes {T : CmdTab} {bs rest : List Byte} {i : Instr}
    (h : decodeBytes T bs = .ok (i, rest)) : i.listable = true ∧ bs = encode T i ++ rest := by
  rcases decodeBytes_cases T bs with ⟨-, e⟩ | ⟨w, more, rfl, ⟨-, e⟩ | ⟨c, hc, e⟩⟩ <;> rw [e] at h <;> cases h
  obtain ⟨hlist, rfl⟩ := decodeWord_eq_some hc
  exact ⟨hlist, rfl⟩

theorem decodeBytes_eq_tooShort_iff {T : CmdTab} {bs : List Byte} :
    decodeBytes T bs = .error .tooShort ↔ bs.length < 4 := by
  rcases decodeBytes_cases T bs with ⟨hlen, e⟩ | ⟨w, rest, rfl, ⟨-, e⟩ | ⟨c, -, e⟩⟩ <;> rw [e]
  · exact iff_of_true rfl hlen
  · exact iff_of_false nofun (by simp [bytesOfWord])
  · exact iff_of_false nofun (by simp [bytesOfWord])

theorem defaultTable_nodup : (commands.map (cmdWord defaultTable)).Nodup := by decide

/-- Settles O14: the search by word and the table lookup undo each other, and four bytes are one word. -/
theorem decodeAndEncodeOfCommandsAgree : Obligations.DecodeAndEncodeOfCommandsAgree :=
  ⟨fun _ hT _ hi rest => decodeBytes_bytesOfWord_append (decodeWord_cmdWord hT hi) rest,
    fun _ _ _ _ => eq_encode_of_decodeBytes,
    fun _ _ => decodeBytes_eq_tooShort_iff,
    defaultTable_nodup,
    fun rest => decodeBytes_bytesOfWord_append (w := cmdWord defaultTable .flush)
      (decodeWord_cmdWord (i := .readId) defaultTable_nodup rfl) rest⟩

/-- Settles O15: closed facts about the default table, evaluated. -/
theorem writtenOutWordsDecode : Obligations.WrittenOutWordsDecode := by
  unfold Obligations.WrittenOutWordsDecode
  decide

/-! ### Selectors (R68) -/

theorem commandOfSelector_eq_none_iff {x : Selector} : commandOfSelector x = none ↔ x = 7 := by
  revert x; decide

/-- The selector of a command is its position in the list. -/
theorem selectorOf_of_commandOfSelector {x : Selector} {i : Instr} (h : commandOfSelector x = some i) :
    selectorOf i = x := by
  have htable : ∀ x : Selector, ∀ i ∈ commands, commandOfSelector x = some i → selectorOf i = x := by decide
  exact htable x i (mem_commands_iff.mpr (commandOfSelector_listable h)) h

/-- Settles O16: the reserved value alone names nothing, and the other values name what `selectorOf` inverts. -/
theorem selectorsNameTheSevenCommands : Obligations.SelectorsNameTheSevenCommands := by
  refine ⟨fun _ => commandOfSelector_eq_none_iff, fun x i => ⟨fun h => ?_, ?_⟩⟩
  · exact ⟨commandOfSelector_listable h, selectorOf_of_commandOfSelector h⟩
  · rintro ⟨hlist, rfl⟩
    exact commandOfSelector_selectorOf hlist

end Sys2Proof.Proofs
end

-- The meanings: what a command does in SEND and in CHECK, and that it does nothing elsewhere.
section
/-! PROOFS. A command has two rows, `transmit` and `checkResponse` (R130, R153, R158): each statement names the row
with `exec_of_send`, `exec_of_check` or `exec_of_no_effect` and reads its fields. -/

namespace Sys2Proof.Proofs
open Sys2Proof Sys2Proof.Machine

/-! ### The rows of a command -/

section Rows
variable {T : CmdTab} {i : Instr} {s : State}

theorem execCommand_of_send (hs : s.seq.state = .send) (hk : s.seq.k < s.seq.n) :
    execCommand T i s = .next (transmit T i s) := by simp only [execCommand, hs, hk, if_true]

theorem execCommand_of_check (hs : s.seq.state = .check) (hk : s.seq.k < s.seq.n) :
    execCommand T i s = .next (checkResponse T i s) := by simp only [execCommand, hs, hk, if_true]

theorem exec_of_send (hi : i.listable = true) (hs : s.seq.state = .send) (hk : s.seq.k < s.seq.n) :
    exec i s = .next (transmit machineConfig.cmdTab i s) := (exec_of_listable hi s).trans (execCommand_of_send hs hk)

theorem exec_of_check (hi : i.listable = true) (hs : s.seq.state = .check) (hk : s.seq.k < s.seq.n) :
    exec i s = .next (checkResponse machineConfig.cmdTab i s) :=
  (exec_of_listable hi s).trans (execCommand_of_check hs hk)

theorem exec_of_no_effect (hi : i.listable = true)
    (h : (s.seq.state ≠ .send ∧ s.seq.state ≠ .check) ∨ s.seq.n ≤ s.seq.k) : exec i s = .next s := by
  rw [exec_of_listable hi]
  rcases execCommand_cases machineConfig.cmdTab i s with ⟨hs, hk, -⟩ | ⟨hs, hk, -⟩ | ⟨-, e⟩
  · exact absurd h (by simp [hs, hk])
  · exact absurd h (by simp [hs, hk])
  · exact e

end Rows

/-! ### SEND (R153) -/

/-- Settles O17: the SEND row, written out. -/
theorem commandsTransmitTheirWordInSend : Obligations.CommandsTransmitTheirWordInSend :=
  fun _ _ hi hs hk => exec_of_send hi hs hk

/-- In SEND an instruction writes its encoding. -/
theorem exists_exec_of_send {i : Instr} {s : State} {bs : List Byte} (hs : s.seq.state = .send)
    (hk : s.seq.k < s.seq.n) (hi : i.listable = true) (hbs : encode machineConfig.cmdTab i = bs) :
    ∃ t, exec i s = .next t ∧ t.port.calls = s.port.calls ++ [.write bs] :=
  ⟨_, exec_of_send hi hs hk, by rw [transmit_port, hbs]⟩

/-- Settles O18: the encodings of the eight instructions, evaluated. -/
theorem eachInstructionSendsItsOwnBytes : Obligations.EachInstructionSendsItsOwnBytes := by
  refine fun s => ⟨fun hs hk => ?_, fun hs => ⟨_, flushTransmitsAndBeginsTheWait s hs, rfl⟩⟩
  exact ⟨exists_exec_of_send hs hk rfl rfl, exists_exec_of_send hs hk rfl rfl, exists_exec_of_send hs hk rfl rfl,
    exists_exec_of_send hs hk rfl rfl, exists_exec_of_send hs hk rfl rfl, exists_exec_of_send hs hk rfl rfl,
    exists_exec_of_send hs hk rfl rfl⟩

/-! ### CHECK (R158, R159) -/

/-- A frame is valid exactly if it has no CRC error and the command's address (R121). -/
theorem verdict_eq_valid_iff {T : CmdTab} {f : Frame} {c : Instr} :
    verdict T f c = .valid ↔ f.crcError = false ∧ f.addr = requestAddr T c := by
  cases hf : f.crcError with
  | true => simp [verdict_of_crcError hf]
  | false =>
    by_cases ha : f.addr = requestAddr T c
    · simp [verdict_of_addr_eq hf ha, ha]
    · simp [verdict_of_addr_ne hf ha, ha]

section CheckResponse
variable (T : CmdTab) (c : Instr) (s : State)

@[simp] theorem frameAt_checkResponse_same :
    frameAt (checkResponse T c s).res s.seq.k = decodeFrame (responseWord s.seq s.seq.k) := by
  rw [checkResponse_res]
  exact readEntry_writeEntry_same ..

@[simp] theorem reqAt_checkResponse_same : reqAt (checkResponse T c s).res s.seq.k = c := by
  rw [checkResponse_res]
  exact readEntry_writeEntry_same ..

variable {j : Nat}

theorem frameAt_checkResponse_ne (h : j ≠ s.seq.k) : frameAt (checkResponse T c s).res j = frameAt s.res j := by
  rw [checkResponse_res]
  exact readEntry_writeEntry_ne _ _ _ _ _ h

theorem reqAt_checkResponse_ne (h : j ≠ s.seq.k) : reqAt (checkResponse T c s).res j = reqAt s.res j := by
  rw [checkResponse_res]
  exact readEntry_writeEntry_ne _ _ _ _ _ h

theorem ok_checkResponse_iff : (checkResponse T c s).res.ok = true ↔
    s.res.ok = true ∧ verdict T (decodeFrame (responseWord s.seq s.seq.k)) c = .valid := by
  rw [checkResponse_res, Bool.and_eq_true, decide_eq_true_iff]

end CheckResponse

/-- Only the value 1 of `rs` means ready (R159). -/
theorem rsReady_eq_true_iff {f : Frame} : rsReady f = true ↔ f.rs = 1 := beq_iff_eq

/-- Settles O19: the CHECK row, field by field. -/
theorem commandsJudgeTheirResponseInCheck : Obligations.CommandsJudgeTheirResponseInCheck := by
  intro i s hi hs hk k w f
  have hok := ok_checkResponse_iff machineConfig.cmdTab i s
  rw [verdict_eq_valid_iff] at hok
  refine ⟨_, exec_of_check hi hs hk, frameAt_checkResponse_same .., reqAt_checkResponse_same .., fun j hj => ?_, ?_,
    hok, ?_, ?_, rsReady_eq_true_iff, rfl, rfl, rfl, rfl, rfl, rfl⟩
  · exact ⟨frameAt_checkResponse_ne _ _ _ hj, reqAt_checkResponse_ne _ _ _ hj⟩
  · rw [checkResponse_res]
  · rw [checkResponse_res]
  · rw [checkResponse_res]

/-- Settles O23: `RES.ok` and CHIP_READY take of the response its verdict and its `rs`, and the verdict takes the
checksum test and the address. -/
theorem directionAndPayloadAreNeverTested : Obligations.DirectionAndPayloadAreNeverTested := by
  intro i s rx hs s' f f' haddr hrs hcrc
  by_cases heffect : i.listable = true ∧ s.seq.k < s.seq.n
  case pos =>
    obtain ⟨hi, hk⟩ := heffect
    refine ⟨_, _, exec_of_check hi hs hk, exec_of_check (s := s') hi hs hk, Bool.eq_iff_iff.mpr ?_, ?_⟩
    · rw [ok_checkResponse_iff, ok_checkResponse_iff, verdict_eq_valid_iff, verdict_eq_valid_iff]
      change s.res.ok = true ∧ f.crcError = false ∧ f.addr = _ ↔ s.res.ok = true ∧ f'.crcError = false ∧ f'.addr = _
      rw [haddr, hcrc]
    · exact congrArg (· == 1) hrs
  case neg =>
    have hnone : ∀ u : State, u.seq.state = .check → u.seq.k = s.seq.k → u.seq.n = s.seq.n → exec i u = .next u := by
      intro u hu huk hun
      cases hi : i.listable with
      | true => exact exec_of_no_effect hi (.inr (by rw [huk, hun]; exact Nat.not_lt.mp fun hk => heffect ⟨hi, hk⟩))
      | false =>
        rw [listable_eq_false.mp hi]
        exact exec_flush_of_ne (by simp [hu])
    exact ⟨s, s', hnone s hs rfl rfl, hnone s' hs rfl rfl, rfl, rfl⟩

/-! ### Elsewhere, and the flush (R130, R138) -/

/-- Settles O20: the third case of what a command can do. -/
theorem commandsHaveNoEffectElsewhere : Obligations.CommandsHaveNoEffectElsewhere :=
  fun _ _ hi h => exec_of_no_effect hi h

/-- Settles O22: in FLUSH the flush writes a call, the poll count and the state; elsewhere nothing. -/
theorem flushTouchesNoResult : Obligations.FlushTouchesNoResult := by
  intro s
  by_cases hs : s.seq.state = .flush
  · exact ⟨_, flushTransmitsAndBeginsTheWait s hs, rfl, rfl, rfl, rfl, rfl, rfl, rfl, rfl, rfl, rfl, rfl,
      fun hne => absurd hs hne⟩
  · exact ⟨s, exec_flush_of_ne hs, rfl, rfl, rfl, rfl, rfl, rfl, rfl, rfl, rfl, rfl, rfl, fun _ => rfl⟩

end Sys2Proof.Proofs
end

-- The block's invariant: kept by every step, and enough for a next step.
section
/-! PROOFS. `Inv` is taken apart into what the block holds in any state (`Held`), what its place in the table of R165
adds while no result is due (`AtRow`), and what CHECK adds (`Judging`). Each row then owes only the part it changes. -/

namespace Sys2Proof.Proofs
open Sys2Proof Sys2Proof.Machine

/-! ### The parts of the invariant -/

/-- The part of the invariant that does not mention the state of the sequencer. A row that changes none of these
fields keeps it as it is: `{ inv_held h with }`. -/
structure Held (C : Config) (s : State) : Prop where
  n_le : s.seq.n ≤ C.nMax
  k_le : s.seq.k ≤ s.seq.n
  cmds_captured : s.seq.n ≤ s.seq.cmds.length
  cmds_listable : ∀ c ∈ s.seq.cmds, c.listable = true
  req_listable : ∀ c ∈ s.res.req, c.listable = true
  frames_checked : ∀ f ∈ s.res.frame, f.crcError = crcErrorOf (frameWord f)

/-- What the invariant says of a state of the table in which no result is presented and none is being judged. -/
def AtRow (C : Config) (s : State) : Prop :=
  match s.seq.state with
  | .idle => True
  | .reset => s.seq.k = 0
  | .send => s.seq.k < s.seq.n
  | .flush => s.seq.k = s.seq.n
  | .wait => s.seq.k = s.seq.n ∧ limitReached C.pollLimit s.seq.polls = false
  | .read => s.seq.k = s.seq.n ∧ frameBytes s.seq.n ≤ s.port.received.length
  | .check | .done => False

/-- What the invariant says of the frames judged so far in CHECK. -/
structure Judging (C : Config) (s : State) : Prop where
  bytes : s.seq.rx.length = frameBytes s.seq.n
  count : s.res.n = s.seq.k
  no_timeout : s.res.timeout = false
  pairs : ∀ i < s.res.n, reqAt s.res i = cmdAt s.seq i
  written : s.res.n ≤ s.res.frame.length ∧ s.res.n ≤ s.res.req.length
  judged : s.res.ok = true ↔ ∀ i < s.res.n, verdict C.cmdTab (frameAt s.res i) (reqAt s.res i) = .valid
  ready : 0 < s.res.n → s.chipReady = rsReady (frameAt s.res (s.res.n - 1))

section Parts
variable {C : Config} {s t : State}

theorem inv_held (h : Inv C s) : Held C s :=
  ⟨h.n_le, h.k_le, h.cmds_captured, h.cmds_listable, h.req_listable, h.frames_checked⟩

theorem inv_judging (h : Inv C s) (hs : s.seq.state = .check) : Judging C s :=
  ⟨h.check_bytes hs, (h.check_count hs).1, (h.check_count hs).2, h.check_pairs hs, h.result_written (.inl hs),
    h.result_judged (.inl hs) (h.check_count hs).2, h.result_ready (.inl hs)⟩

theorem inv_of_atRow (hheld : Held C s) (hvalid : s.res.valid = false) (hrow : AtRow C s) : Inv C s := by
  have hnone : ¬ (s.seq.state = .check ∨ s.res.valid = true) := by
    rintro (hs | hv)
    · simp [AtRow, hs] at hrow
    · simp [hvalid] at hv
  exact {
    hheld with
    busy_result := fun _ => hvalid
    done_result := fun hs => by simp [AtRow, hs] at hrow
    reset_index := fun hs => by simpa [AtRow, hs] using hrow
    send_index := fun hs => by simpa [AtRow, hs] using hrow
    sent_index := fun hs => by rcases hs with hs | hs | hs <;> simp [AtRow, hs] at hrow <;> simp [hrow]
    wait_polls := fun hs => by simp [AtRow, hs] at hrow; exact hrow.2
    read_bytes := fun hs => by simp [AtRow, hs] at hrow; exact hrow.2
    check_bytes := fun hs => absurd (.inl hs) hnone
    check_count := fun hs => absurd (.inl hs) hnone
    check_pairs := fun hs => absurd (.inl hs) hnone
    result_written := fun hs => absurd hs hnone
    result_judged := fun hs => absurd hs hnone
    result_timeout := fun hv => absurd (.inr hv) hnone
    result_ready := fun hs => absurd hs hnone }

theorem inv_of_judging (hheld : Held C s) (hs : s.seq.state = .check) (hvalid : s.res.valid = false)
    (h : Judging C s) : Inv C s :=
  { hheld with
    busy_result := fun _ => hvalid
    done_result := by simp [hs]
    reset_index := by simp [hs]
    send_index := by simp [hs]
    sent_index := by simp [hs]
    wait_polls := by simp [hs]
    read_bytes := by simp [hs]
    check_bytes := fun _ => h.bytes
    check_count := fun _ => ⟨h.count, h.no_timeout⟩
    check_pairs := fun _ => h.pairs
    result_written := fun _ => h.written
    result_judged := fun _ _ => h.judged
    result_timeout := by simp [hvalid]
    result_ready := fun _ => h.ready }

/-- The invariant speaks of CHIP_READY, SEQ, RES and the bytes received alone. -/
theorem inv_congr (hready : t.chipReady = s.chipReady) (hseq : t.seq = s.seq) (hres : t.res = s.res)
    (hreceived : t.port.received = s.port.received) (h : Inv C s) : Inv C t := by
  obtain ⟨acc, ready, seq, res, session, ⟨calls, received⟩, env, inputs⟩ := s
  obtain ⟨acc', ready', seq', res', session', ⟨calls', received'⟩, env', inputs'⟩ := t
  cases hready; cases hseq; cases hres; cases hreceived
  exact { h with }

end Parts

/-! ### The start and the resets -/

section Rows
variable {C : Config} {s t : State}

/-- An accepted start: RESET, at index 0, with the list captured. -/
theorem inv_captureStart {L : List Instr} (hlen : L.length ≤ C.nMax) (hlist : ∀ c ∈ L, c.listable = true)
    (h : Inv C s) : Inv C (captureStart L s) := by
  refine inv_of_atRow { inv_held h with n_le := hlen, k_le := Nat.zero_le _, cmds_captured := ?_, cmds_listable := ?_ }
    rfl rfl
  · simp
  · intro c hc
    rcases List.mem_append.mp hc with hc | hc
    · exact hlist c hc
    · exact h.cmds_listable c (List.mem_of_mem_drop hc)

/-- The block after reset holds nothing. -/
theorem inv_blockReset : Inv C (blockReset s) :=
  inv_of_atRow ⟨Nat.zero_le _, Nat.le_refl _, Nat.le_refl _, nofun, nofun, nofun⟩ rfl trivial

/-! ### The rows of the sequencer (R165) -/

theorem inv_transmit {T : CmdTab} {c : Instr} (hs : s.seq.state = .send) (h : Inv C s) : Inv C (transmit T c s) := by
  have hk : s.seq.k < s.seq.n := h.send_index hs
  refine inv_of_atRow { inv_held h with k_le := hk } (h.busy_result (by simp [busy, hs])) ?_
  by_cases hlast : s.seq.k + 1 = s.seq.n
  · simp [AtRow, hlast]
  · simp only [AtRow, transmit_seq, hlast, if_false]
    omega

/-- The wait begins with no failed poll, and no limit is 0 (R156). -/
theorem inv_flush {bs : List Byte} (hC : C.pollLimit ≠ some 0) (hs : s.seq.state = .flush) (h : Inv C s) :
    Inv C ((tWrite bs s).setSeq { s.seq with polls := 0, state := .wait }) := by
  refine inv_of_atRow { inv_held h with } (h.busy_result (by simp [busy, hs])) ?_
  refine ⟨h.sent_index (.inl hs), ?_⟩
  show limitReached C.pollLimit 0 = false
  cases hp : C.pollLimit with
  | none => rfl
  | some p => simpa [limitReached, Nat.pos_iff_ne_zero, hp] using hC

theorem inv_resetRow (hs : s.seq.state = .reset) (h : Inv C s) : Inv C (resetRow s) := by
  refine inv_of_atRow { inv_held h with } (h.busy_result (by simp [busy, hs])) ?_
  have hk : s.seq.k = 0 := h.reset_index hs
  by_cases hn : 0 < s.seq.n
  · simp [AtRow, resetRow, hn, hk]
  · simp [AtRow, resetRow, hk, Nat.eq_zero_of_not_pos hn]

/-- The timeout presents a result with no frames. -/
theorem inv_timeOutTransaction (hheld : Held C s) : Inv C (timeOutTransaction s) :=
  { hheld with
    busy_result := by simp [timeOutTransaction, busy]
    done_result := fun _ => rfl
    reset_index := nofun
    send_index := nofun
    sent_index := by simp [timeOutTransaction]
    wait_polls := nofun
    read_bytes := nofun
    check_bytes := nofun
    check_count := nofun
    check_pairs := nofun
    result_written := fun _ => ⟨Nat.zero_le _, Nat.zero_le _⟩
    result_judged := nofun
    result_timeout := fun _ _ => ⟨rfl, rfl⟩
    result_ready := fun _ hn => absurd hn (Nat.lt_irrefl 0) }

theorem inv_waitRow (hs : s.seq.state = .wait) (h : Inv C s) : Inv C (waitRow C.pollLimit s) := by
  have hvalid : s.res.valid = false := h.busy_result (by simp [busy, hs])
  have hsent : s.seq.k = s.seq.n := h.sent_index (.inr (.inl hs))
  rcases waitRow_cases C.pollLimit s with ⟨hbytes, e⟩ | ⟨-, hlimit, e⟩ | ⟨-, -, e⟩ <;> rw [e]
  · exact inv_of_atRow { inv_held h with } hvalid ⟨hsent, hbytes.trans (le_length_tAvail s)⟩
  · exact inv_of_atRow { inv_held h with } hvalid (by simp [AtRow, hs, hsent, hlimit])
  · exact inv_timeOutTransaction { inv_held h with }

/-- CHECK begins with no frame judged. -/
theorem inv_read {p : Port} {rx : List Byte} (hrx : rx.length = frameBytes s.seq.n) (hs : s.seq.state = .read)
    (h : Inv C s) : Inv C (((s.setPort p).setSeq { s.seq with rx := rx, k := 0, state := .check }).setRes
      { s.res with ok := true, timeout := false, n := 0 }) := by
  refine inv_of_judging { inv_held h with k_le := Nat.zero_le _ } rfl (h.busy_result (by simp [busy, hs])) ?_
  exact ⟨hrx, rfl, rfl, nofun, ⟨Nat.zero_le _, Nat.zero_le _⟩, iff_of_true rfl nofun,
    fun hn => absurd hn (Nat.lt_irrefl 0)⟩

theorem held_checkResponse {T : CmdTab} {c : Instr} (hk : s.seq.k < s.seq.n) (hc : c.listable = true) (h : Held C s) :
    Held C (checkResponse T c s) := by
  refine { h with k_le := hk, req_listable := fun i hi => ?_, frames_checked := fun f hf => ?_ }
  · rw [checkResponse_res] at hi
    rcases mem_writeEntry _ _ _ _ hi with rfl | hi | ⟨j, rfl⟩
    · exact hc
    · exact h.req_listable i hi
    · exact commandOfFin_listable _
  · rw [checkResponse_res] at hf
    rcases mem_writeEntry _ _ _ _ hf with rfl | hf | ⟨j, rfl⟩
    · rw [frameWord_decodeFrame, decodeFrame_crcError]
    · exact h.frames_checked f hf
    · rw [freeFrame, frameWord_decodeFrame, decodeFrame_crcError]

/-- The row judges frame k and leaves the frames before it: what held of k frames holds of k + 1. -/
theorem judging_checkResponse (h : Judging C s) :
    Judging C (checkResponse C.cmdTab (cmdAt s.seq s.seq.k) s) := by
  have hn : (checkResponse C.cmdTab (cmdAt s.seq s.seq.k) s).res.n = s.seq.k + 1 := by rw [checkResponse_res]
  have hcount : s.res.n = s.seq.k := h.count
  refine ⟨h.bytes, hn, ?_, ?_, ?_, ?_, ?_⟩
  · rw [checkResponse_res]
    exact h.no_timeout
  · rw [hn, Nat.forall_lt_succ_right]
    refine ⟨fun i hi => ?_, reqAt_checkResponse_same ..⟩
    rw [reqAt_checkResponse_ne _ _ _ hi.ne]
    exact h.pairs i (hcount ▸ hi)
  · rw [checkResponse_res]
    simp only [length_writeEntry]
    exact ⟨Nat.le_max_right .., Nat.le_max_right ..⟩
  · have hbefore : (∀ i < s.seq.k, verdict C.cmdTab (frameAt (checkResponse C.cmdTab (cmdAt s.seq s.seq.k) s).res i)
          (reqAt (checkResponse C.cmdTab (cmdAt s.seq s.seq.k) s).res i) = .valid) ↔ s.res.ok = true := by
      rw [h.judged, hcount]
      refine forall₂_congr fun i hi => ?_
      rw [frameAt_checkResponse_ne _ _ _ hi.ne, reqAt_checkResponse_ne _ _ _ hi.ne]
    rw [ok_checkResponse_iff, hn, Nat.forall_lt_succ_right, hbefore, frameAt_checkResponse_same,
      reqAt_checkResponse_same]
  · intro _
    rw [hn, Nat.add_sub_cancel, frameAt_checkResponse_same, checkResponse_chipReady]

theorem inv_checkResponse (hs : s.seq.state = .check) (hk : s.seq.k < s.seq.n)
    (hc : (cmdAt s.seq s.seq.k).listable = true) (h : Inv C s) :
    Inv C (checkResponse C.cmdTab (cmdAt s.seq s.seq.k) s) := by
  refine inv_of_judging (held_checkResponse hk hc (inv_held h)) hs ?_ (judging_checkResponse (inv_judging h hs))
  rw [checkResponse_res]
  exact h.busy_result (by simp [busy, hs])

/-- The last CHECK row presents what was judged. -/
theorem inv_finishRow (hs : s.seq.state = .check) (h : Inv C s) : Inv C (finishRow s) :=
  { inv_held h with
    busy_result := by simp [finishRow, busy]
    done_result := fun _ => rfl
    reset_index := nofun
    send_index := nofun
    sent_index := by simp [finishRow]
    wait_polls := nofun
    read_bytes := nofun
    check_bytes := nofun
    check_count := nofun
    check_pairs := nofun
    result_written := fun _ => h.result_written (.inl hs)
    result_judged := fun _ => h.result_judged (.inl hs)
    result_timeout := fun _ htimeout => by
      have hno : s.res.timeout = false := (inv_judging h hs).no_timeout
      exact absurd (hno.symm.trans htimeout) Bool.false_ne_true
    result_ready := fun _ => h.result_ready (.inl hs) }

theorem inv_of_sameBlock (hst : SameBlock s t) (h : Inv C s) : Inv C t := by
  obtain ⟨-, hready, hseq, hres, hreceived, -⟩ := hst
  exact inv_congr hready hseq hres hreceived h

/-- The host's turn: nothing, or an accepted start. -/
theorem inv_hostStep (h : Inv C s) : Inv C (hostStep C s) := by
  rcases hostStep_block C s with hsame | ⟨-, L, hlen, hlist, hsame⟩
  · exact inv_of_sameBlock hsame h
  · exact inv_of_sameBlock hsame (inv_captureStart hlen hlist h)

end Rows

/-! ### The step -/

theorem inv_row {s t : State} (h : Inv machineConfig s) (hrow : Row s t) : Inv machineConfig t := by
  cases hrow with
  | send hs hk hc => exact inv_transmit hs h
  | flush hs => exact inv_flush pollLimit_ne_zero hs h
  | check hs hk hc => exact inv_checkResponse hs hk hc h
  | finish hs hk => exact inv_finishRow hs h
  | reset hs => exact inv_resetRow hs h
  | wait hs => exact inv_waitRow hs h
  | read hs hr => exact inv_read (List.length_take_of_le hr) hs h
  | host hs => exact inv_hostStep h
  | sendEnd hs hk => exact h
  | unlisted hs hc => exact h

theorem inv_of_landed {C : Config} {s u : State} (hland : Landed s u) (h : Inv C s) : Inv C u := by
  obtain ⟨-, hready, hseq, hres, hport, -, -⟩ := hland
  exact inv_congr hready hseq hres (congrArg Port.received hport) h

/-- Settles O38: a start, a reset, or the row of the state. -/
theorem everyStepKeepsTheBlockInvariant : Obligations.EveryStepKeepsTheBlockInvariant := by
  intro s t h hstep
  rcases step_cases hstep with ⟨L, rest, cs, -, -, -, hlen, hcs, rfl⟩ | ⟨rest, -, rfl⟩ | ⟨rest, -, rfl⟩ |
    ⟨u, hland, hrow⟩
  · exact inv_captureStart hlen (commandsOfSelectors_spec hcs).2 (inv_congr (s := s) rfl rfl rfl rfl h)
  · exact inv_blockReset
  · exact inv_congr (s := s) rfl rfl rfl rfl h
  · exact inv_row (inv_of_landed hland h) hrow

/-- Settles O36: the reset state, evaluated. -/
theorem resetValuesOfTheSpec : Obligations.ResetValuesOfTheSpec :=
  ⟨rfl, rfl, rfl, rfl, rfl, rfl, rfl, rfl, rfl, rfl⟩

/-- Settles O37: the reset state is one that a reset of the block leaves. -/
theorem blockInvariantHoldsAtReset : Obligations.BlockInvariantHoldsAtReset :=
  inv_blockReset (s := State.reset)

/-! ### No step stops (R170) -/

/-- The inner step stops in READ alone, for want of bytes. -/
theorem exists_innerStep {s : State} (h : s.seq.state = .read → frameBytes s.seq.n ≤ s.port.received.length) :
    ∃ t, innerStep s = .next t := by
  cases hfetch : fetch s with
  | some i =>
    rw [innerStep_of_fetch hfetch, exec_eq_execIn, execIn]
    split_ifs
    · rcases execCommand_cases machineConfig.cmdTab i s with ⟨-, -, e⟩ | ⟨-, -, e⟩ | ⟨-, e⟩ <;> exact ⟨_, e⟩
    · rcases flushRow_cases machineConfig.cmdTab s with ⟨-, e⟩ | ⟨-, e⟩ <;> exact ⟨_, e⟩
  | none =>
    rw [innerStep_of_none hfetch]
    cases hs : s.seq.state with
    | read =>
      rcases readRow_cases s with ⟨hfew, -⟩ | ⟨-, e⟩
      · exact absurd (h hs) hfew.not_ge
      · have hplain : plainStep machineConfig s = readRow s := by simp only [plainStep, hs]
        exact ⟨_, hplain.trans e⟩
    | _ => simp only [plainStep, hs, Host.Outcome.next.injEq, exists_eq']

/-- From a sound state there is a next one: a landed input leaves the bytes where they are. -/
theorem exists_step {s : State} (h : Inv machineConfig s) : ∃ t, step s = .next t := by
  unfold step
  rcases landInput_cases machineConfig s with ⟨-, e⟩ | ⟨x, rest, -, hx⟩
  · rw [e]; exact exists_innerStep h.read_bytes
  · rcases hx with ⟨-, e⟩ | ⟨L, cs, -, -, -, -, -, e⟩ | ⟨L, -, -, e⟩ | ⟨op, -, e⟩ | ⟨-, e⟩ | ⟨-, e⟩ <;> rw [e]
    · exact exists_innerStep h.read_bytes
    · exact ⟨_, rfl⟩
    · exact exists_innerStep h.read_bytes
    · exact exists_innerStep h.read_bytes
    · exact ⟨_, rfl⟩
    · exact ⟨_, rfl⟩

/-- A step that answers a next state leaves the rest of the run to that state. -/
theorem run_succ {M : Host.Core} {s t : M.State} (h : M.step s = .next t) (k : Nat) : M.run (k + 1) s = M.run k t := by
  simp only [Host.Core.run, h]

/-- Settles O39, by induction on the number of steps: a sound state has a next one, and that is sound. -/
theorem noRunFromASoundStateStops : Obligations.NoRunFromASoundStateStops := by
  intro s k h
  induction k generalizing s with
  | zero => exact ⟨s, rfl⟩
  | succ k ih =>
    obtain ⟨t, ht⟩ := exists_step h
    obtain ⟨u, hu⟩ := ih t (everyStepKeepsTheBlockInvariant s t h ht)
    exact ⟨u, (run_succ (M := Sys2Proof.core) ht k).trans hu⟩

end Sys2Proof.Proofs
end

-- The CRC-8 engine: its step, its byte-wise and polynomial forms, and the changes of a frame it does not see.
section
/-! PROOFS. The byte-wise engine and the long division carry the message bits still to come inside their accumulator:
each is the bit-serial accumulator XOR those bits (`foldl_crcShift`, `foldl_divideStep`). A change of a valid frame
passes exactly if its syndrome is 0, and the syndrome is linear (R98, R99). -/

namespace Sys2Proof.Proofs
open Sys2Proof Sys2Proof.Machine

/-! ### One step (R93) -/

/-- Settles O2: shift, then XOR 0x1D if the bit fed back is 1, which touches bits 4, 3, 2 and 0. -/
theorem crcStepOnSingleBits : Obligations.CrcStepOnSingleBits := by
  intro a x
  rw [crcStep_eq, BitVec.msb_eq_getLsbD_last]
  cases a.getLsbD 7 ^^ x <;> simp

/-! ### The byte-wise engine (R97) -/

/-- The bits of a byte, most significant first. -/
def byteBits (b : Byte) : List Bool := (List.range 8).map fun j => b.getLsbD (7 - j)

/-- XORing a byte in before the shift feeds its top bit to the bit-serial step and moves the others up. -/
theorem crcShift_xor (a b : Byte) : crcShift (a ^^^ b) = crcStep a b.msb ^^^ b <<< 1 := by
  rw [crcShift, crcStep_eq, BitVec.msb_xor, BitVec.shiftLeft_xor_distrib]
  split <;> ac_rfl

/-- After n shifts n bits of the byte have been taken, and the others stand at the top. -/
theorem foldl_crcShift (a b : Byte) {n : Nat} (hn : n ≤ 8) :
    (List.range n).foldl (fun a _ => crcShift a) (a ^^^ b) =
      ((List.range n).map fun j => b.getLsbD (7 - j)).foldl crcStep a ^^^ b <<< n := by
  induction n with
  | zero => simp
  | succ n ih =>
    have hmsb : (b <<< n).msb = b.getLsbD (7 - n) := by
      rw [BitVec.msb_shiftLeft, BitVec.getMsbD_eq_getLsbD, decide_eq_true (by omega : n < 8), Bool.true_and]
    simp only [List.range_succ, List.foldl_append, List.map_append, List.map_cons, List.map_nil, List.foldl_cons,
      List.foldl_nil]
    rw [ih (by omega), crcShift_xor, hmsb, BitVec.shiftLeft_add]

/-- One byte of the byte-wise engine is eight steps of the bit-serial one. -/
theorem crcByte_eq_foldl (a b : Byte) : crcByte a b = (byteBits b).foldl crcStep a := by
  have hgone : b <<< 8 = 0 := BitVec.shiftLeft_eq_zero (Nat.le_refl 8)
  rw [crcByte, foldl_crcShift a b (Nat.le_refl 8), hgone, byteBits]
  exact BitVec.xor_zero

/-- The message bits are those of the three upper bytes. -/
theorem messageBits_eq_byteBits (w : Word) :
    messageBits w = byteBits (w.extractLsb' 24 8) ++ byteBits (w.extractLsb' 16 8) ++ byteBits (w.extractLsb' 8 8) := by
  simp [messageBits, byteBits, List.range_succ, BitVec.getLsbD_extractLsb']

/-- Settles O4: byte by byte, over the three upper bytes. -/
theorem crcIsTheBytewiseEngine : Obligations.CrcIsTheBytewiseEngine := by
  intro w
  simp only [crc8, crcAcc, crcOfBytes, messageBits_eq_byteBits, List.foldl_append, List.foldl_cons, List.foldl_nil,
    crcByte_eq_foldl]

/-! ### Long division (R102) -/

/-- Step j of the long division: clear bit `31 - j` by a shifted copy of the divisor. -/
def divideStep (r : Word) (j : Nat) : Word := if r.getLsbD (31 - j) then r ^^^ ((0x11D : Word) <<< (23 - j)) else r

/-- The message bits not taken by the first j steps, where they stand in the word. -/
def messageFrom (w : Word) (j : Nat) : Word := (w &&& 0xFFFFFF00) &&& (BitVec.allOnes 32 >>> j)

theorem getLsbD_messageFrom (w : Word) (j i : Nat) :
    (messageFrom w j).getLsbD i = (decide (8 ≤ i ∧ i + j < 32) && w.getLsbD i) := by
  have hmask : ∀ i < 32, (0xFFFFFF00 : Word).getLsbD i = decide (8 ≤ i) := by decide
  by_cases hi : i < 32
  · have hj : j + i < 32 ↔ i + j < 32 := by omega
    simp only [messageFrom, BitVec.getLsbD_and, hmask i hi, BitVec.getLsbD_ushiftRight, BitVec.getLsbD_allOnes, hj]
    grind
  · rw [BitVec.getLsbD_of_ge _ _ (by omega), BitVec.getLsbD_of_ge w _ (by omega), Bool.and_false]

/-- The top message bit still to come, apart from those below it. -/
theorem messageFrom_eq_xor (w : Word) {j m : Nat} (h : j + m = 23) :
    messageFrom w j = (if w.getLsbD (m + 8) then BitVec.twoPow 32 (m + 8) else 0) ^^^ messageFrom w (j + 1) := by
  refine BitVec.eq_of_getLsbD_eq fun i hi => ?_
  rw [BitVec.getLsbD_xor, getLsbD_messageFrom, getLsbD_messageFrom]
  by_cases htop : i = m + 8
  · have hj : 8 ≤ i ∧ i + j < 32 := by omega
    have hj' : ¬ (8 ≤ i ∧ i + (j + 1) < 32) := by omega
    rw [decide_eq_true hj, decide_eq_false hj', Bool.true_and, Bool.false_and, Bool.xor_false, htop]
    have hlt : m + 8 < 32 := by omega
    cases hbit : w.getLsbD (m + 8) <;> simp [hlt]
  · have hj : 8 ≤ i ∧ i + j < 32 ↔ 8 ≤ i ∧ i + (j + 1) < 32 := by omega
    cases hbit : w.getLsbD (m + 8) <;> simp [hj, Ne.symm htop, BitVec.getLsbD_twoPow]

theorem twoPow_eight_shiftLeft (m : Nat) : BitVec.twoPow 32 8 <<< m = BitVec.twoPow 32 (m + 8) := by
  rw [BitVec.twoPow, ← BitVec.shiftLeft_add, Nat.add_comm]
  rfl

/-- The top bit of the accumulator, apart from those below it, which the step shifts up. -/
theorem setWidth_shiftLeft_succ (a : Byte) (m : Nat) :
    a.setWidth 32 <<< (m + 1) =
      (if a.msb then BitVec.twoPow 32 (m + 8) else 0) ^^^ (a <<< 1).setWidth 32 <<< m := by
  have hone : a.setWidth 32 <<< 1 = (if a.msb then BitVec.twoPow 32 8 else 0) ^^^ (a <<< 1).setWidth 32 := by
    rw [BitVec.msb_eq_getLsbD_last]
    refine BitVec.eq_of_getLsbD_eq fun i hi => ?_
    have hge : 8 ≤ i - 1 → a.getLsbD (i - 1) = false := BitVec.getLsbD_of_ge a (i - 1)
    cases h : a.getLsbD 7 <;> simp [BitVec.getLsbD_shiftLeft, hi] <;> grind
  rw [Nat.add_comm, BitVec.shiftLeft_add, hone, BitVec.shiftLeft_xor_distrib]
  split
  · rw [twoPow_eight_shiftLeft]
  · simp

/-- The divisor is x^8 and the byte 0x1D. -/
theorem divisor_shiftLeft (m : Nat) :
    (0x11D : Word) <<< m = BitVec.twoPow 32 (m + 8) ^^^ (0x1D : Byte).setWidth 32 <<< m := by
  have h : (0x11D : Word) = BitVec.twoPow 32 8 ^^^ (0x1D : Byte).setWidth 32 := by decide
  rw [h, BitVec.shiftLeft_xor_distrib, twoPow_eight_shiftLeft]

/-- The bit tested by a step of the division is the one the bit-serial step feeds back. -/
theorem getLsbD_top (w : Word) (a : Byte) {j m : Nat} (h : j + m = 23) :
    (a.setWidth 32 <<< (m + 1) ^^^ messageFrom w j).getLsbD (m + 8) = (a.msb ^^ w.getLsbD (m + 8)) := by
  have hin : 8 ≤ m + 8 ∧ m + 8 + j < 32 := by omega
  have hlt : m + 8 < 32 := by omega
  rw [BitVec.getLsbD_xor, getLsbD_messageFrom, decide_eq_true hin, Bool.true_and, BitVec.msb_eq_getLsbD_last]
  congr 1
  simp [hlt]

/-- A step of the division on the accumulator, with the message bits to come below it, is the bit-serial step: both
top bits go, and the byte 0x1D comes in if they differ. -/
theorem divideStep_setWidth (w : Word) (a : Byte) {j m : Nat} (h : j + m = 23) :
    divideStep (a.setWidth 32 <<< (m + 1) ^^^ messageFrom w j) j =
      (crcStep a (w.getLsbD (31 - j))).setWidth 32 <<< m ^^^ messageFrom w (j + 1) := by
  have h31 : 31 - j = m + 8 := by omega
  have h23 : 23 - j = m := by omega
  rw [divideStep, h31, h23, getLsbD_top w a h, crcStep_eq, setWidth_shiftLeft_succ, messageFrom_eq_xor w h,
    divisor_shiftLeft]
  generalize BitVec.twoPow 32 (m + 8) = top
  cases a.msb <;> cases w.getLsbD (m + 8) <;>
    simp [BitVec.setWidth_xor, BitVec.shiftLeft_xor_distrib] <;> grind

/-- After n steps the division holds the accumulator of n message bits, with the others below it. -/
theorem foldl_divideStep (w : Word) {n : Nat} (hn : n ≤ 24) :
    (List.range n).foldl divideStep (crcDividend w) =
      (((List.range n).map fun j => w.getLsbD (31 - j)).foldl crcStep 0xFF).setWidth 32 <<< (24 - n) ^^^
        messageFrom w n := by
  induction n with
  | zero =>
    have hstart : (0xFF000000 : Word) = (0xFF : Byte).setWidth 32 <<< 24 := by decide
    rw [messageFrom, BitVec.ushiftRight_zero, BitVec.and_allOnes, crcDividend, BitVec.xor_comm, hstart]
    simp only [List.range_zero, List.map_nil, List.foldl_nil, Nat.sub_zero]
  | succ n ih =>
    have h24 : 24 - n = 23 - n + 1 := by omega
    simp only [List.range_succ, List.foldl_append, List.map_append, List.map_cons, List.map_nil, List.foldl_cons,
      List.foldl_nil]
    rw [ih (by omega), h24, divideStep_setWidth w _ (by omega), Nat.sub_add_eq, Nat.sub_right_comm]

/-- Settles O5: after 24 steps no message bit is left below the accumulator. -/
theorem crcIsThePolynomialRemainder : Obligations.CrcIsThePolynomialRemainder := by
  intro w
  have hnone : messageFrom w 24 = 0 := by
    refine BitVec.eq_of_getLsbD_eq fun i _ => ?_
    rw [getLsbD_messageFrom, decide_eq_false (by omega), Bool.false_and]
    exact BitVec.getLsbD_zero.symm
  have hreduce : polyReduce (crcDividend w) = (crcAcc w).setWidth 32 := by
    refine (foldl_divideStep w (Nat.le_refl 24)).trans ?_
    rw [hnone, Nat.sub_self, BitVec.shiftLeft_zero]
    exact BitVec.xor_zero
  refine BitVec.eq_of_toNat_eq ?_
  rw [polyRem, hreduce, toNat_extractLsb'_eq_div_mod, BitVec.toNat_setWidth]
  omega

/-! ### The changes the check does not see (R99) -/

/-- The syndrome of a change: what it adds to the checksum computed, XOR what it adds to the one received. -/
def flipSyndrome (e : Word) : Byte := crcXorNetwork e ^^^ crcField e

theorem crcField_xor (u v : Word) : crcField (u ^^^ v) = crcField u ^^^ crcField v := by
  refine BitVec.eq_of_getLsbD_eq fun i _ => ?_
  simp only [crcField, BitVec.getLsbD_xor, BitVec.getLsbD_extractLsb', Bool.and_xor_distrib_left]

theorem crcXorNetwork_eq (w : Word) : crcXorNetwork w = crc8 w ^^^ 0xF1 := by
  rw [crc8_eq_crcXorNetwork]
  grind

theorem flipSyndrome_xor (d e : Word) : flipSyndrome (d ^^^ e) = flipSyndrome d ^^^ flipSyndrome e := by
  simp only [flipSyndrome, crcXorNetwork_eq, crc8_xor_const, crcField_xor]
  ac_rfl

theorem flipSyndrome_eq_zero_iff {e : Word} : flipSyndrome e = 0 ↔ crcXorNetwork e = crcField e :=
  BitVec.xor_eq_zero_iff

/-- A change of a valid frame passes exactly if its syndrome is 0, whatever the frame. -/
theorem crcErrorOf_xor_eq_false_iff {w : Word} (hw : crcErrorOf w = false) (e : Word) :
    crcErrorOf (w ^^^ e) = false ↔ flipSyndrome e = 0 := by
  have hcrc : crc8 (w ^^^ e) = crc8 w ^^^ crcXorNetwork e := by
    rw [crc8_xor, crcXorNetwork_eq, BitVec.xor_assoc]
  rw [crcErrorOf_eq_false_iff] at hw ⊢
  rw [hcrc, crcField_xor, hw, BitVec.xor_right_inj, flipSyndrome_eq_zero_iff]

/-- Settles O6: the syndrome is 0 where its two parts are equal. -/
theorem corruptionPassesExactlyWhenContributionsCancel : Obligations.CorruptionPassesExactlyWhenContributionsCancel :=
  fun _ e hw => (crcErrorOf_xor_eq_false_iff hw e).trans flipSyndrome_eq_zero_iff

/-! ### Flips of one, two and three bits (R99) -/

/-- The syndrome of one flipped bit: the contribution of a message bit, or the bit itself in the checksum field. -/
def bitSyndrome (i : Nat) : Byte := if i < 8 then 1 <<< i else crcContribution i

/-- The table of R98 for a message bit; a bit of the checksum field enters no checksum. -/
theorem flipSyndrome_one_shiftLeft {i : Nat} (hi : i < 32) : flipSyndrome ((1 : Word) <<< i) = bitSyndrome i := by
  have hone (j : Nat) : ((1 : Word) <<< i).getLsbD j = decide (i = j) := by
    exact (BitVec.getLsbD_twoPow i j).trans (by rw [decide_eq_true hi, Bool.true_and])
  unfold flipSyndrome bitSyndrome
  split
  case isTrue h8 =>
    have hmessage : crc8 ((1 : Word) <<< i) = crc8 0 := by
      refine crc8_congr fun j hj _ => ?_
      rw [hone, decide_eq_false (by omega)]
      exact BitVec.getLsbD_zero.symm
    have hfield : crcField ((1 : Word) <<< i) = 1 <<< i := by
      refine BitVec.eq_of_getLsbD_eq fun j hj => ?_
      rw [crcField, BitVec.getLsbD_extractLsb', Nat.zero_add, hone, decide_eq_true hj, Bool.true_and]
      exact ((BitVec.getLsbD_twoPow i j).trans (by rw [decide_eq_true h8, Bool.true_and])).symm
    rw [crcXorNetwork_eq, hmessage, crc8_zero, BitVec.xor_self, hfield]
    exact BitVec.zero_xor
  case isFalse h8 =>
    have hfield : crcField ((1 : Word) <<< i) = 0 := by
      refine BitVec.eq_of_getLsbD_eq fun j hj => ?_
      rw [crcField, BitVec.getLsbD_extractLsb', Nat.zero_add, hone, decide_eq_false (by omega : ¬ i = j), Bool.and_false]
      exact BitVec.getLsbD_zero.symm
    rw [crcXorNetwork_eq, ← crcContribution_eq (Nat.le_of_not_lt h8) hi, hfield]
    exact BitVec.xor_zero

/-- No bit has syndrome 0, and no two bits the same. -/
theorem bitSyndrome_nodup : (0 :: (List.range 32).map bitSyndrome).Nodup := by decide

theorem bitSyndrome_ne_zero {i : Nat} (hi : i < 32) : bitSyndrome i ≠ 0 := fun h =>
  (List.nodup_cons.mp bitSyndrome_nodup).1 (List.mem_map.mpr ⟨i, List.mem_range.mpr hi, h⟩)

theorem bitSyndrome_injective {i j : Nat} (hi : i < 32) (hj : j < 32) (h : bitSyndrome i = bitSyndrome j) : i = j :=
  List.inj_on_of_nodup_map (List.nodup_cons.mp bitSyndrome_nodup).2 (List.mem_range.mpr hi) (List.mem_range.mpr hj) h

/-- Settles O7: no bit has syndrome 0, and no two bits the same. -/
theorem oneAndTwoBitFlipsAreDetected : Obligations.OneAndTwoBitFlipsAreDetected := by
  intro w hw i j hi hj
  have hdetected {e : Word} (he : flipSyndrome e ≠ 0) : crcErrorOf (w ^^^ e) = true :=
    (Bool.not_eq_false _).mp (mt (crcErrorOf_xor_eq_false_iff hw e).mp he)
  refine ⟨hdetected ?_, fun hij => hdetected ?_⟩
  · rw [flipSyndrome_one_shiftLeft hi]
    exact bitSyndrome_ne_zero hi
  · rw [flipSyndrome_xor, flipSyndrome_one_shiftLeft hi, flipSyndrome_one_shiftLeft hj]
    exact fun h => hij (bitSyndrome_injective hi hj (BitVec.xor_eq_zero_iff.mp h))

/-- The flip of three bits. -/
def tripleFlip (i j k : Nat) : Word := (1 : Word) <<< i ^^^ (1 : Word) <<< j ^^^ (1 : Word) <<< k

/-- The two constellations of three bits whose syndromes cancel. -/
def Constellation (i j k : Nat) : Prop := (j = i + 1 ∧ k = i + 25) ∨ (j = i + 10 ∧ k = i + 21)

/-- The syndromes of the bits are the powers of x modulo the divisor. -/
theorem bitSyndrome_succ {i : Nat} (hi : i < 31) : bitSyndrome (i + 1) = crcStep (bitSyndrome i) false := by
  have htable : ∀ i < 31, bitSyndrome (i + 1) = crcStep (bitSyndrome i) false := by decide
  exact htable i hi

/-- A shift loses nothing, as the divisor has a constant term. -/
theorem crcStep_false_eq_zero_iff {a : Byte} : crcStep a false = 0 ↔ a = 0 := by
  revert a
  decide

/-- Whether three syndromes cancel depends on the distances alone. -/
theorem bitSyndrome_xor_add {i a b : Nat} (ha : i + a < 32) (hb : i + b < 32) :
    bitSyndrome i ^^^ bitSyndrome (i + a) ^^^ bitSyndrome (i + b) = 0 ↔
      bitSyndrome 0 ^^^ bitSyndrome a ^^^ bitSyndrome b = 0 := by
  induction i with
  | zero => rw [Nat.zero_add, Nat.zero_add]
  | succ i ih =>
    rw [← ih (by omega) (by omega), Nat.add_right_comm i 1 a, Nat.add_right_comm i 1 b, bitSyndrome_succ (by omega),
      bitSyndrome_succ (by omega), bitSyndrome_succ (by omega), ← Bool.xor_false false, ← crcStep_xor, ← crcStep_xor]
    exact crcStep_false_eq_zero_iff

/-- The triples of bits whose syndromes cancel, by the table for the lowest bit at position 0. -/
theorem bitSyndrome_xor_eq_zero_iff {i j k : Nat} (hij : i < j) (hjk : j < k) (hk : k < 32) :
    bitSyndrome i ^^^ bitSyndrome j ^^^ bitSyndrome k = 0 ↔ Constellation i j k := by
  have htable : ∀ b < 32, ∀ a < b, 0 < a →
      (bitSyndrome 0 ^^^ bitSyndrome a ^^^ bitSyndrome b = 0 ↔ (a = 1 ∧ b = 25) ∨ (a = 10 ∧ b = 21)) := by decide
  obtain ⟨a, rfl⟩ := Nat.exists_eq_add_of_lt hij
  obtain ⟨b, rfl⟩ := Nat.exists_eq_add_of_lt (hij.trans hjk)
  rw [Nat.add_assoc i, Nat.add_assoc i, bitSyndrome_xor_add (by omega) (by omega),
    htable (b + 1) (by omega) (a + 1) (by omega) (by omega), Constellation]
  omega

theorem flipSyndrome_tripleFlip_eq_zero_iff {i j k : Nat} (hij : i < j) (hjk : j < k) (hk : k < 32) :
    flipSyndrome (tripleFlip i j k) = 0 ↔ Constellation i j k := by
  have hj : j < 32 := hjk.trans hk
  rw [tripleFlip, flipSyndrome_xor, flipSyndrome_xor, flipSyndrome_one_shiftLeft (hij.trans hj),
    flipSyndrome_one_shiftLeft hj, flipSyndrome_one_shiftLeft hk, bitSyndrome_xor_eq_zero_iff hij hjk hk]

/-- The 18 patterns of R99 (c). -/
def passingTripleFlips : List Word :=
  [0x02000003, 0x00200401, 0x04000006, 0x00400802, 0x0800000C, 0x00801004, 0x10000018, 0x01002008,
    0x20000030, 0x02004010, 0x40000060, 0x04008020, 0x800000C0, 0x08010040, 0x10020080, 0x20040100,
    0x40080200, 0x80100400]

/-- The patterns are the two constellations at each of their places in a word. -/
theorem mem_passingTripleFlips_iff {e : Word} : e ∈ passingTripleFlips ↔
    (∃ i < 7, tripleFlip i (i + 1) (i + 25) = e) ∨ (∃ i < 11, tripleFlip i (i + 10) (i + 21) = e) := by
  have hperm : passingTripleFlips.Perm ((List.range 7).map (fun i => tripleFlip i (i + 1) (i + 25)) ++
      (List.range 11).map fun i => tripleFlip i (i + 10) (i + 21)) := by decide
  simp only [hperm.mem_iff, List.mem_append, List.mem_map, List.mem_range]

/-- Settles O8: three flips pass exactly if they stand in one of the two constellations. -/
theorem threeBitFlipsThatPassAreTheEighteenListed : Obligations.ThreeBitFlipsThatPassAreTheEighteenListed := by
  intro w hw i j k hij hjk hk
  change crcErrorOf (w ^^^ tripleFlip i j k) = false ↔ tripleFlip i j k ∈ passingTripleFlips
  rw [crcErrorOf_xor_eq_false_iff hw]
  constructor
  · intro hzero
    rcases (flipSyndrome_tripleFlip_eq_zero_iff hij hjk hk).mp hzero with ⟨rfl, rfl⟩ | ⟨rfl, rfl⟩
    · exact mem_passingTripleFlips_iff.mpr (.inl ⟨i, by omega, rfl⟩)
    · exact mem_passingTripleFlips_iff.mpr (.inr ⟨i, by omega, rfl⟩)
  · intro hmem
    rcases mem_passingTripleFlips_iff.mp hmem with ⟨m, hm, he⟩ | ⟨m, hm, he⟩ <;> rw [← he]
    · exact (flipSyndrome_tripleFlip_eq_zero_iff (by omega) (by omega) (by omega)).mpr (.inl ⟨rfl, rfl⟩)
    · exact (flipSyndrome_tripleFlip_eq_zero_iff (by omega) (by omega) (by omega)).mpr (.inr ⟨rfl, rfl⟩)

/-! ### One valid word per upper 24 bits (R69) -/

section Append
variable (u : BitVec 24) (c d : Byte)

theorem extractLsb'_append_byte : (u ++ c).extractLsb' 8 24 = u := by
  refine BitVec.eq_of_toNat_eq ?_
  rw [toNat_extractLsb'_eq_div_mod, toNat_append_eq_add]
  omega

theorem crcField_append_byte : crcField (u ++ c) = c := by
  refine BitVec.eq_of_toNat_eq ?_
  rw [toNat_crcField, toNat_append_eq_add]
  omega

/-- The checksum does not see the byte appended (R95). -/
theorem crc8_append_byte : crc8 (u ++ c) = crc8 (u ++ d) := by
  refine crc8_congr fun i h8 _ => ?_
  have hupper : ¬ i < 8 := by omega
  simp only [BitVec.getLsbD_append, hupper, if_false]

end Append

/-- A word is its upper 24 bits and its checksum field. -/
theorem append_crcField (w : Word) : w.extractLsb' 8 24 ++ crcField w = w := by
  refine BitVec.eq_of_toNat_eq ?_
  rw [toNat_append_eq_add, toNat_extractLsb'_eq_div_mod, toNat_crcField]
  omega

/-- Settles O12: the checksum field must be the checksum of the upper bits, which it does not enter. -/
theorem oneValidWordPerUpperBits : Obligations.OneValidWordPerUpperBits := by
  intro u
  refine ⟨u ++ crc8 (u ++ (0 : Byte)), ⟨extractLsb'_append_byte .., ?_⟩, ?_⟩
  · rw [decodeFrame_crcError, crcErrorOf_eq_false_iff, crcField_append_byte]
    exact crc8_append_byte ..
  · rintro w ⟨rfl, hvalid⟩
    rw [decodeFrame_crcError, crcErrorOf_eq_false_iff] at hvalid
    have hcrc : crc8 w = crc8 (w.extractLsb' 8 24 ++ (0 : Byte)) := by
      conv_lhs => rw [← append_crcField w]
      exact crc8_append_byte ..
    rw [← hcrc, hvalid, append_crcField]

end Sys2Proof.Proofs
end

-- The step: which row it is, under any configuration, and what the rows of the sequencer write.
section
/-! PROOFS. With no input due the step is the row of R165 for the state (`stepIn_of_send` and its kin, for any
configuration); `step_eq_stepIn` carries them over to `step`. -/

namespace Sys2Proof.Proofs
open Sys2Proof Sys2Proof.Machine

/-! ### The configured machine (R6) -/

theorem step_eq_stepIn (s : State) : step s = stepIn machineConfig s := by
  rcases h : landInput machineConfig s with ⟨t, b⟩
  cases b with
  | true => simp only [step, stepIn, h]
  | false =>
    cases hf : fetch t with
    | none => simp only [step, stepIn, innerStep, h, hf]
    | some i => simp only [step, stepIn, innerStep, h, hf, exec_eq_execIn]

/-- Settles O27: arm by arm the same machine, at a configuration that R67 and R156 allow. -/
theorem stepIsTheConfiguredStep : Obligations.StepIsTheConfiguredStep := ⟨machineConfig_wellFormed, step_eq_stepIn⟩

/-! ### The row of the state (R165) -/

section Rows
variable {C : Config} {s : State}

/-- With no input due the step is the row of the state. -/
theorem stepIn_of_no_input (hi : s.inputs = []) :
    stepIn C s = (fetch s).elim (plainStep C s) fun i => execIn C.cmdTab i s := by
  cases hf : fetch s <;> simp [stepIn, landInput, hi, hf]

theorem stepIn_of_reset (hi : s.inputs = []) (hs : s.seq.state = .reset) : stepIn C s = .next (resetRow s) := by
  simp [stepIn_of_no_input hi, fetch, plainStep, hs]

theorem stepIn_of_send (hi : s.inputs = []) (hs : s.seq.state = .send) (hk : s.seq.k < s.seq.n)
    (hc : (cmdAt s.seq s.seq.k).listable = true) :
    stepIn C s = .next (transmit C.cmdTab (cmdAt s.seq s.seq.k) s) := by
  simp [stepIn_of_no_input hi, fetch, execIn, hs, hk, hc, execCommand_of_send]

theorem stepIn_of_flush (hi : s.inputs = []) (hs : s.seq.state = .flush) :
    stepIn C s = .next ((tWrite (encode C.cmdTab .flush) s).setSeq { s.seq with polls := 0, state := .wait }) := by
  simp [stepIn_of_no_input hi, fetch, execIn, Instr.listable, flushRow, hs]

theorem stepIn_of_wait (hi : s.inputs = []) (hs : s.seq.state = .wait) :
    stepIn C s = .next (waitRow C.pollLimit s) := by
  simp [stepIn_of_no_input hi, fetch, plainStep, hs]

theorem stepIn_of_read (hi : s.inputs = []) (hs : s.seq.state = .read) : stepIn C s = readRow s := by
  simp [stepIn_of_no_input hi, fetch, plainStep, hs]

theorem stepIn_of_check (hi : s.inputs = []) (hs : s.seq.state = .check) (hk : s.seq.k < s.seq.n)
    (hc : (cmdAt s.seq s.seq.k).listable = true) :
    stepIn C s = .next (checkResponse C.cmdTab (cmdAt s.seq s.seq.k) s) := by
  simp [stepIn_of_no_input hi, fetch, execIn, hs, hk, hc, execCommand_of_check]

theorem stepIn_of_finish (hi : s.inputs = []) (hs : s.seq.state = .check) (hk : s.seq.n ≤ s.seq.k) :
    stepIn C s = .next (finishRow s) := by
  simp [stepIn_of_no_input hi, fetch, plainStep, hs, hk.not_gt]

end Rows

/-! ### The instruction a step runs (R153, R154, R158) -/

theorem cmdAt_eq_of_getElem? {q : Sequencer} {i : Nat} {c : Instr} (h : q.cmds[i]? = some c) : cmdAt q i = c := by
  rw [cmdAt, readEntry_eq, h, Option.getD_some]

theorem fetch_of_lt {s : State} (hs : s.seq.state = .send ∨ s.seq.state = .check) (hk : s.seq.k < s.seq.n) :
    fetch s = some (cmdAt s.seq s.seq.k) := by
  rcases hs with hs | hs <;> simp [fetch, hs, hk]

theorem fetch_of_flush {s : State} (hs : s.seq.state = .flush) : fetch s = some .flush := by simp [fetch, hs]

/-- With no input due the step runs what is fetched. -/
theorem step_of_fetch {s : State} {i : Instr} (hi : s.inputs = []) (hf : fetch s = some i) : step s = exec i s := by
  rw [step_of_no_input hi, innerStep_of_fetch hf]

/-- A quiet input is dropped from the schedule, and the step is the one without it. -/
theorem step_of_quiet {s : State} {rest : List Input} (hi : s.inputs = .quiet :: rest) :
    step s = innerStep (s.setInputs rest) := by
  simp [step, landInput, hi]

/-- Settles O25: the fetch finds the command at the index, or the flush, whatever the schedule. -/
theorem stepRunsTheCommandAtTheIndex : Obligations.StepRunsTheCommandAtTheIndex := by
  have hfetch {s : State} {i : Instr} (hs : s.seq.state = .send ∨ s.seq.state = .check) (hk : s.seq.k < s.seq.n)
      (hc : s.seq.cmds[s.seq.k]? = some i) : fetch s = some i := by
    rw [fetch_of_lt hs hk, cmdAt_eq_of_getElem? hc]
  refine ⟨fun s i hi hs hk hc => ?_, fun s hi hs => ?_, fun s i rest hi hs hk hc => ?_, fun s rest hi hs => ?_⟩
  · exact step_of_fetch hi (hfetch hs hk hc)
  · exact step_of_fetch hi (fetch_of_flush hs)
  · exact (step_of_quiet hi).trans (innerStep_of_fetch (hfetch (s := s.setInputs rest) hs hk hc))
  · exact (step_of_quiet hi).trans (innerStep_of_fetch (fetch_of_flush (s := s.setInputs rest) hs))

/-- Settles O26: the placed command is the one element of the list, at index 0. -/
theorem stepRunsAPlacedWord : Obligations.StepRunsAPlacedWord := by
  intro s nbits w i hdecode
  simp only [State.withFetchWord, hdecode]
  exact step_of_fetch rfl (fetch_of_lt (s := placeCommand i s) (.inl rfl) Nat.one_pos)

/-! ### The start (R151) -/

/-- A list of selectors within the bounds names as many commands, in order. -/
theorem exists_commandsOfSelectors {L : List Selector} (h : ∀ x ∈ L, x ≠ 7) :
    ∃ cs, commandsOfSelectors L = some cs ∧ ∀ i : Nat, L[i]?.bind commandOfSelector = cs[i]? := by
  induction L with
  | nil => exact ⟨[], rfl, fun _ => rfl⟩
  | cons x L ih =>
    obtain ⟨cs, hcs, hget⟩ := ih fun y hy => h y (List.mem_cons_of_mem x hy)
    obtain ⟨c, hc⟩ := Option.ne_none_iff_exists'.mp (mt commandOfSelector_eq_none_iff.mp (h x List.mem_cons_self))
    refine ⟨c :: cs, by simp only [commandsOfSelectors, hc, hcs], fun i => ?_⟩
    cases i with
    | zero => exact hc
    | succ i => exact hget i

/-- The captured list stands before the entries the list does not reach, which are as before. -/
theorem cmdAt_captureStart (L : List Instr) (s : State) (i : Nat) :
    cmdAt (captureStart L s).seq i = (L[i]?).getD (cmdAt s.seq i) := by
  rw [captureStart_seq, cmdAt, cmdAt, readEntry_eq, readEntry_eq, List.getElem?_append, List.getElem?_drop]
  split
  case isTrue hi => simp [hi]
  case isFalse hi =>
    have hle : L.length ≤ i := Nat.le_of_not_lt hi
    rw [List.getElem?_eq_none hle, Nat.add_sub_cancel' hle]
    rfl

theorem step_of_accepted_start {s : State} {L : List Selector} {rest : List Input} {cs : List Instr}
    (hi : s.inputs = .start L :: rest) (hp : s.session.phase = .idle) (hs : s.seq.state = .idle ∨ s.seq.state = .done)
    (hlen : L.length ≤ machineConfig.nMax) (hcs : commandsOfSelectors L = some cs) :
    step s = .next (captureStart cs (s.setInputs rest)) := by
  have hstart : presentStart machineConfig L (s.setInputs rest) = some (captureStart cs (s.setInputs rest)) :=
    presentStart_eq_some.mpr ⟨busy_eq_false.mpr hs, hlen, cs, hcs, rfl⟩
  simp only [step, landInput, hi, hostFree_iff.mpr hp, if_true, hstart]

theorem selectorsWellFormed_iff {nMax : Nat} {L : List Selector} :
    selectorsWellFormed nMax L = true ↔ L.length ≤ nMax ∧ ∀ x ∈ L, x ≠ 7 := by
  simp [selectorsWellFormed]

/-- Settles O28: with the host free the start is accepted with its writes; while it is not, the start lands as a
quiet input does. -/
theorem acceptedStartCapturesTheList : Obligations.AcceptedStartCapturesTheList := by
  constructor
  · intro s L rest hi hp
    have hfree : hostFree s = false := Bool.eq_false_iff.mpr (mt hostFree_iff.mp hp)
    rw [step_of_quiet (s := { s with inputs := .quiet :: rest }) rfl]
    simp only [step, landInput_start_of_not_free hi hfree]
    rfl
  · intro s L rest hi hp hs hwf
    obtain ⟨hlen, hseven⟩ := selectorsWellFormed_iff.mp hwf
    obtain ⟨cs, hcs, hget⟩ := exists_commandsOfSelectors hseven
    have hcount : cs.length = L.length := (commandsOfSelectors_spec hcs).1
    refine ⟨_, step_of_accepted_start hi hp hs hlen hcs, rfl, hcount, fun i hlt => ?_, fun i hle => ?_, rfl, rfl, rfl,
      rfl, rfl, rfl, rfl, rfl, rfl, rfl⟩
    · have hi' := hget i
      rw [List.getElem?_eq_getElem hlt, List.getElem?_eq_getElem (hcount.symm ▸ hlt)] at hi'
      rw [cmdAt_captureStart, List.getElem?_eq_getElem (hcount.symm ▸ hlt), List.getD_eq_getElem _ _ hlt]
      exact hi'
    · rw [cmdAt_captureStart, List.getElem?_eq_none (hcount.symm ▸ hle)]
      rfl

/-! ### IDLE, DONE and the reset (R160, R165, R270) -/

/-- Settles O30: the host, asked for nothing, does nothing. -/
theorem idleAndDoneStandStill : Obligations.IdleAndDoneStandStill := by
  intro s hi hs hp hreq
  rw [step_of_idle hi hs]
  simp only [hostStep, hp, takeRequest, hreq]

/-- Settles O35: the reset input is the whole step. -/
theorem blockResetAbandonsTheTransaction : Obligations.BlockResetAbandonsTheTransaction := by
  intro s rest hi
  have hstep : step s = .next (blockReset (s.setInputs rest)) := by simp only [step, landInput, hi]
  exact ⟨_, hstep, rfl, rfl, rfl, rfl, rfl, rfl, rfl, rfl, rfl, rfl, rfl, rfl, rfl⟩

/-! ### WAIT (R155, R156) -/

/-- The answer of `TAvail` is the next scripted one, or a free one. -/
theorem tAvail_fst (s : State) : (tAvail s).1 = s.env.avail.headD (Config.freeAvail s.env.draws) := by
  cases h : s.env.avail <;> simp [tAvail, nextAvail, h]

@[simp] theorem arrive_avail (m : Nat) (e : Environment) : (arrive m e).2.avail = e.avail := by
  have hbyte (e : Environment) : (nextByte e).2.avail = e.avail := by cases h : e.incoming <;> simp [nextByte, h]
  induction m generalizing e with
  | zero => rfl
  | succ m ih => simp [arrive, ih, hbyte]

/-- An answer is used up. -/
@[simp] theorem tAvail_env_avail (s : State) : (tAvail s).2.env.avail = s.env.avail.tail := by
  cases h : s.env.avail <;> simp [tAvail, nextAvail, h]

/-- What the WAIT row leaves alone, and the one call it makes, whichever of its three cases it is. -/
structure Polled (s t : State) : Prop where
  calls : t.port.calls = s.port.calls ++ [.avail (tAvail s).1]
  received : t.port.received = (tAvail s).2.port.received
  env : t.env = (tAvail s).2.env
  chipReady : t.chipReady = s.chipReady
  acc : t.acc = s.acc
  session : t.session = s.session
  inputs : t.inputs = s.inputs

theorem polled_waitRow (limit : Option Nat) (s : State) : Polled s (waitRow limit s) := by
  rcases waitRow_cases limit s with ⟨-, e⟩ | ⟨-, -, e⟩ | ⟨-, -, e⟩ <;> rw [e] <;>
    exact ⟨rfl, rfl, rfl, rfl, rfl, rfl, rfl⟩

theorem limitReached_iff {limit : Option Nat} {polls : Nat} :
    limitReached limit polls = true ↔ ∃ p, limit = some p ∧ p ≤ polls := by
  cases limit <;> simp [limitReached]

/-- Settles O32: the three cases of the WAIT row exclude each other. -/
theorem waitRowsPollAndTimeOut : Obligations.WaitRowsPollAndTimeOut := by
  intro C s hi hs a
  have ha : (tAvail s).1 = a := tAvail_fst s
  have hpoll := polled_waitRow C.pollLimit s
  refine ⟨_, stepIn_of_wait hi hs, ha ▸ hpoll.calls, ?_, ?_, ?_, hpoll.chipReady, hpoll.acc, hpoll.session,
    hpoll.inputs.trans hi, ?_⟩
  · rw [hpoll.received, ← ha]
    exact le_length_tAvail s
  · rw [hpoll.received]
    exact tAvail_received s
  · rw [hpoll.env, tAvail_env_avail]
  · rcases waitRow_cases C.pollLimit s with ⟨hbytes, e⟩ | ⟨hfew, hlimit, e⟩ | ⟨hfew, hlimit, e⟩ <;> rw [e]
    · rw [ha] at hbytes
      exact ⟨fun _ => ⟨rfl, rfl⟩, fun h => absurd hbytes h.not_ge, fun h => absurd hbytes h.not_ge⟩
    · rw [ha] at hfew
      refine ⟨fun h => absurd h hfew.not_ge, fun _ _ => ⟨rfl, rfl⟩, fun _ hp => ?_⟩
      exact absurd (limitReached_iff.mpr hp) (hlimit ▸ Bool.false_ne_true)
    · rw [ha] at hfew
      obtain ⟨p, hp, hle⟩ := limitReached_iff.mp hlimit
      exact ⟨fun h => absurd h hfew.not_ge, fun _ h => absurd hle (h p hp).not_ge, fun _ _ => ⟨rfl, rfl⟩⟩

/-! ### READ and CHECK (R157, R158, R160, R168) -/

/-- The READ row with the bytes to read written out. -/
theorem readRow_of_append {s : State} {bs more : List Byte} (hb : s.port.received = bs ++ more)
    (hlen : bs.length = frameBytes s.seq.n) : readRow s = .next { s with
      port := { calls := s.port.calls ++ [.read bs], received := more }
      seq := { s.seq with rx := bs, k := 0, state := .check }
      res := { s.res with ok := true, timeout := false, n := 0 } } := by
  rcases readRow_cases s with ⟨hfew, -⟩ | ⟨-, e⟩
  · rw [hb, List.length_append] at hfew
    omega
  · rw [e, hb, ← hlen, List.take_left, List.drop_left]
    rfl

/-- Settles O33: the READ row takes the bytes, or blocks. -/
theorem readRowTakesTheWholeTransaction : Obligations.ReadRowTakesTheWholeTransaction := by
  intro s hi hs
  have hstep : step s = readRow s := (step_eq_stepIn s).trans (stepIn_of_read hi hs)
  refine ⟨fun bs more hb hlen => hstep.trans (readRow_of_append hb hlen), fun hfew => ?_⟩
  rcases readRow_cases s with ⟨-, e⟩ | ⟨hbytes, -⟩
  · exact hstep.trans e
  · exact absurd hbytes hfew.not_ge

/-- Settles O34: the last CHECK row. -/
theorem lastCheckRowPresentsTheResult : Obligations.LastCheckRowPresentsTheResult :=
  fun s hi hs hk => (step_eq_stepIn s).trans (stepIn_of_finish hi hs hk.ge)

/-- The CHECK row reads of the buffer the response word alone. -/
theorem checkResponse_congr_rx {T : CmdTab} {c : Instr} {s : State} {rx : List Byte}
    (h : responseWord { s.seq with rx := rx } s.seq.k = responseWord s.seq s.seq.k) :
    checkResponse T c { s with seq := { s.seq with rx := rx } } =
      { checkResponse T c s with seq := { (checkResponse T c s).seq with rx := rx } } := by
  simp only [checkResponse, h]
  rfl

/-- Settles O24: the response words start at byte 4, and the fetch and the last row read no byte at all. -/
theorem artifactFrameIsNeverLookedAt : Obligations.ArtifactFrameIsNeverLookedAt := by
  intro s rx hi hs hrx
  have hword : responseWord { s.seq with rx := rx } s.seq.k = responseWord s.seq s.seq.k := by
    simp only [responseWord]
    rw [hrx _ (by omega), hrx _ (by omega), hrx _ (by omega), hrx _ (by omega)]
  by_cases hk : s.seq.k < s.seq.n
  case neg =>
    have hle : s.seq.n ≤ s.seq.k := Nat.le_of_not_lt hk
    exact ⟨finishRow s, (step_eq_stepIn s).trans (stepIn_of_finish hi hs hle),
      (step_eq_stepIn _).trans (stepIn_of_finish hi hs hle)⟩
  case pos =>
    have hstep : step s = exec (cmdAt s.seq s.seq.k) s := step_of_fetch hi (fetch_of_lt (.inr hs) hk)
    have hstep' : step { s with seq := { s.seq with rx := rx } } =
        exec (cmdAt s.seq s.seq.k) { s with seq := { s.seq with rx := rx } } :=
      step_of_fetch hi (fetch_of_lt (.inr hs) hk)
    rw [hstep, hstep']
    cases hc : (cmdAt s.seq s.seq.k).listable with
    | true =>
      refine ⟨_, exec_of_check hc hs hk, (exec_of_check hc ?_ ?_).trans (congrArg _ (checkResponse_congr_rx hword))⟩
      · exact hs
      · exact hk
    | false =>
      rw [listable_eq_false.mp hc]
      exact ⟨s, exec_flush_of_ne (by simp [hs]), exec_flush_of_ne (by simp [hs])⟩

end Sys2Proof.Proofs
end

-- The host: its actions said once, its invariant, and the transactions it starts and judges.
section
/-! PROOFS. With the sequencer in IDLE or DONE a row is one action of the host (`HostAction`), and else it leaves the
host and the captured list alone (`row_cases`): the statements about sessions, angles and transactions are read off the
list of actions (R210 to R223). -/

namespace Sys2Proof.Proofs
open Sys2Proof Sys2Proof.Machine

/-! ### The transactions the host starts (R214, R218, R222) -/

theorem hostStart_machineConfig {L : List Instr} {s : State} (hs : s.seq.state = .idle ∨ s.seq.state = .done)
    (hlen : L.length ≤ 5) (hlist : ∀ c ∈ L, c.listable = true) : hostStart machineConfig L s = captureStart L s :=
  hostStart_accepted (busy_eq_false.mpr hs) (hlen.trans five_le_nMax) hlist

theorem setupStart_eq {s : State} (hs : s.seq.state = .idle ∨ s.seq.state = .done) : setupStart machineConfig s =
    (captureStart setupCommands s).setSession { s.session with state := .awaitingReady, phase := .awaitSetup } := by
  rw [setupStart, hostStart_machineConfig hs (by decide) (by decide)]
  rfl

theorem beginIdentity_eq {s : State} (hs : s.seq.state = .idle ∨ s.seq.state = .done) : beginIdentity machineConfig s =
    (captureStart identityCommands s).setSession { s.session with phase := .awaitIdentity } := by
  rw [beginIdentity, hostStart_machineConfig hs (by decide) (by decide)]
  rfl

/-! ### The end of setup and of a refresh (R215, R216, R221) -/

/-- setup ends in Ready or in Faulted, and writes nothing but the session. -/
theorem setupFinish_cases (s : State) : ∃ st r, (st = .ready ∨ st = .faulted) ∧
    setupFinish s = s.setSession { s.session with state := st, phase := .idle, result := r } := by
  unfold setupFinish
  split_ifs
  · exact ⟨_, _, .inr rfl, rfl⟩
  · exact ⟨_, _, .inr rfl, rfl⟩
  · exact ⟨_, _, .inr rfl, rfl⟩
  · exact ⟨_, _, .inr rfl, rfl⟩
  · exact ⟨_, _, .inl rfl, rfl⟩

/-- The status of a refresh faults the session under FAULT_ON_STEADY_STATUS = true with a reboot-forcing bit set. -/
theorem steadyCause_statusDecode (C : Config) (d : Half) : steadyCause C (statusDecode d).usable =
    if C.faultOnSteadyStatus = true ∧ d &&& 0x039E ≠ 0 then some .faultBitsSet else none := by
  have husable : (statusDecode d).usable = false ↔ d &&& 0x039E ≠ 0 :=
    (Bool.not_eq_true _).symm.to_iff.trans (not_congr usable_statusDecode_iff)
  simp only [steadyCause, Bool.and_eq_true, Bool.not_eq_true', husable]

theorem steadyState_statusDecode (C : Config) (d : Half) (st : SessionState) :
    steadyState C (statusDecode d).usable st =
      if C.faultOnSteadyStatus = true ∧ d &&& 0x039E ≠ 0 then .faulted else st := by
  rw [steadyState, steadyCause_statusDecode]
  split_ifs <;> rfl

/-- The machine's configuration keeps the session where it is (log 20). -/
theorem steadyState_machineConfig (usable : Bool) (st : SessionState) : steadyState machineConfig usable st = st := rfl

/-! ### The actions of the host -/

/-- Everything the host can do in its turn, with the sequencer in IDLE or DONE. -/
inductive HostAction (s : State) : State → Prop where
  | stand : HostAction s s
  /-- An operation is over, or was none (R220, R222, R225). -/
  | ended (pending : List HostOp) (r : Option HostResult) :
      HostAction s (s.setSession { s.session with phase := .idle, pending := pending, result := r })
  | beginSetup (pending : List HostOp) : HostAction s
      (s.setSession { s.session with state := .poweringUp, phase := .configure, pending := pending })
  | configured (hp : s.session.phase = .configure) (hok : (tConfigure machineConfig.bus s).1 = true) :
      HostAction s ((tConfigure machineConfig.bus s).2.setSession { s.session with phase := .setMode })
  | configureFailed (hp : s.session.phase = .configure) (hok : (tConfigure machineConfig.bus s).1 = false)
      (r : Option HostResult) : HostAction s ((tConfigure machineConfig.bus s).2.setSession
        { s.session with state := .faulted, phase := .idle, result := r })
  | setMode (hp : s.session.phase = .setMode) :
      HostAction s ((tWrite (encode machineConfig.cmdTab .setMode) s).setSession
        { s.session with state := .configuringMode, phase := .startSetup })
  | startSetup (hp : s.session.phase = .startSetup) : HostAction s ((captureStart setupCommands s).setSession
      { s.session with state := .awaitingReady, phase := .awaitSetup })
  | setupOver (hp : s.session.phase = .awaitSetup) (st : SessionState) (hst : st = .ready ∨ st = .faulted)
      (r : Option HostResult) :
      HostAction s (s.setSession { s.session with state := st, phase := .idle, result := r })
  | startRefresh (hready : s.session.state = .ready) (pending : List HostOp) :
      HostAction s ((captureStart refreshCommands s).setSession
        { s.session with phase := .awaitRefresh, pending := pending })
  | refreshed (hp : s.session.phase = .awaitRefresh) (hs : s.seq.state = .done) (hok : s.res.ok = true)
      (x y z : Half) (r : Option HostResult) : HostAction s (s.setSession { s.session with
        angleX := degrees x, angleY := degrees y, angleZ := degrees z, phase := .idle, result := r })
  | startIdentity (pending : List HostOp) : HostAction s ((captureStart identityCommands s).setSession
      { s.session with phase := .awaitIdentity, pending := pending })

section HostStep
variable {s : State}

theorem hostAction_takeRequest (hs : s.seq.state = .idle ∨ s.seq.state = .done) :
    HostAction s (takeRequest machineConfig s) := by
  unfold takeRequest
  split
  case h_1 => exact .stand
  case h_2 op rest _ =>
    cases op with
    | setup => exact .beginSetup rest
    | refreshState =>
      by_cases hready : s.session.state = .ready
      · simp only [beginOp, beginRefresh_of_ready (s := s.setSession { s.session with pending := rest }) hs hready]
        exact .startRefresh hready rest
      · simp only [beginOp, beginRefresh_of_not_ready (s := s.setSession { s.session with pending := rest }) hready]
        exact .ended rest _
    | checkChipsetID =>
      simp only [beginOp, beginIdentity_eq (s := s.setSession { s.session with pending := rest }) hs]
      exact .startIdentity rest

theorem hostAction_setupConfigure (hp : s.session.phase = .configure) :
    HostAction s (setupConfigure machineConfig s) := by
  unfold setupConfigure
  dsimp only
  split
  case isTrue hok => exact .configured hp hok
  case isFalse hok => exact .configureFailed hp (Bool.eq_false_iff.mpr hok) _

theorem hostAction_setupFinish (hp : s.session.phase = .awaitSetup) : HostAction s (setupFinish s) := by
  obtain ⟨st, r, hst, e⟩ := setupFinish_cases s
  rw [e]
  exact .setupOver hp st hst r

theorem hostAction_refreshFinish (hp : s.session.phase = .awaitRefresh) (hs : s.seq.state = .done) :
    HostAction s (refreshFinish machineConfig s) := by
  unfold refreshFinish
  split
  case isTrue hok => exact .refreshed hp hs hok _ _ _ _
  case isFalse => exact .ended s.session.pending _

/-- A host that waits finishes in DONE; in IDLE it can only take a request (log 21). -/
theorem hostAction_awaitDone {finish : State → State} (hs : s.seq.state = .idle ∨ s.seq.state = .done)
    (hfinish : s.seq.state = .done → HostAction s (finish s)) : HostAction s (awaitDone machineConfig finish s) := by
  unfold awaitDone
  split
  case isTrue hdone => exact hfinish hdone
  case isFalse => exact hostAction_takeRequest hs

theorem hostAction_hostStep (hs : s.seq.state = .idle ∨ s.seq.state = .done) :
    HostAction s (hostStep machineConfig s) := by
  unfold hostStep
  cases hp : s.session.phase with
  | idle => exact hostAction_takeRequest hs
  | configure => exact hostAction_setupConfigure hp
  | setMode => exact .setMode hp
  | startSetup =>
    simp only [setupStart_eq hs]
    exact .startSetup hp
  | awaitSetup => exact hostAction_awaitDone hs fun _ => hostAction_setupFinish hp
  | awaitRefresh => exact hostAction_awaitDone hs (hostAction_refreshFinish hp)
  | awaitIdentity => exact hostAction_awaitDone hs fun _ => .ended s.session.pending _

end HostStep

/-- A row is the host's turn, or, while a transaction runs, leaves the host and the captured list alone. -/
theorem row_cases {s t : State} (hrow : Row s t) :
    (busy s = false ∧ HostAction s t) ∨
    (busy s = true ∧ t.session = s.session ∧ t.seq.n = s.seq.n ∧ t.seq.cmds = s.seq.cmds) := by
  cases hrow with
  | host hs => exact .inl ⟨busy_eq_false.mpr hs, hostAction_hostStep hs⟩
  | send hs | flush hs | check hs | finish hs | reset hs | read hs | sendEnd hs =>
    exact .inr ⟨by simp [busy, hs], rfl, rfl, rfl⟩
  | unlisted hs => exact .inr ⟨by rcases hs with hs | hs <;> simp [busy, hs], rfl, rfl, rfl⟩
  | wait hs =>
    refine .inr ⟨by simp [busy, hs], (polled_waitRow _ s).session, ?_⟩
    rcases waitRow_cases machineConfig.pollLimit s with ⟨-, e⟩ | ⟨-, -, e⟩ | ⟨-, -, e⟩ <;> rw [e] <;> exact ⟨rfl, rfl⟩

/-! ### The host's invariant (R210 to R218) -/

theorem isAngle_degrees (d : Half) : isAngle (degrees d) := ⟨d, rfl⟩

section HostInv
variable {s t : State}

/-- Between two operations the invariant speaks of the angles alone. -/
theorem hostInv_of_phase_idle (hp : t.session.phase = .idle) (hx : isAngle t.session.angleX)
    (hy : isAngle t.session.angleY) (hz : isAngle t.session.angleZ) : HostInv t :=
  ⟨fun st h => by simp [hp, phaseState] at h, fun L h => by simp [hp, phaseCommands] at h, hx, hy, hz⟩

/-- The transaction just started is the host's own. -/
theorem own_transaction_captureStart (L : List Instr) (s : State) :
    (captureStart L s).seq.n = L.length ∧ (captureStart L s).seq.cmds.take L.length = L :=
  ⟨rfl, List.take_left⟩

theorem hostInv_hostAction (h : HostInv s) (hact : HostAction s t) : HostInv t := by
  cases hact with
  | stand => exact h
  | ended pending r => exact hostInv_of_phase_idle rfl h.angle_x h.angle_y h.angle_z
  | setupOver hp st hst r => exact hostInv_of_phase_idle rfl h.angle_x h.angle_y h.angle_z
  | configureFailed hp hok r => exact hostInv_of_phase_idle rfl h.angle_x h.angle_y h.angle_z
  | refreshed hp hs hok x y z r =>
    exact hostInv_of_phase_idle rfl (isAngle_degrees x) (isAngle_degrees y) (isAngle_degrees z)
  | beginSetup pending => exact ⟨fun _ hst => Option.some.inj hst, nofun, h.angle_x, h.angle_y, h.angle_z⟩
  | configured hp hok =>
    have hstate : s.session.state = .poweringUp := h.phase_state _ (by rw [hp]; rfl)
    exact ⟨fun _ hst => hstate.trans (Option.some.inj hst), nofun, h.angle_x, h.angle_y, h.angle_z⟩
  | setMode hp => exact ⟨fun _ hst => Option.some.inj hst, nofun, h.angle_x, h.angle_y, h.angle_z⟩
  | startSetup hp =>
    refine ⟨fun _ hst => Option.some.inj hst, fun L hL => .inr ?_, h.angle_x, h.angle_y, h.angle_z⟩
    exact Option.some.inj hL ▸ own_transaction_captureStart setupCommands s
  | startRefresh hready pending =>
    refine ⟨fun _ hst => hready.trans (Option.some.inj hst), fun L hL => .inr ?_, h.angle_x, h.angle_y, h.angle_z⟩
    exact Option.some.inj hL ▸ own_transaction_captureStart refreshCommands s
  | startIdentity pending =>
    refine ⟨nofun, fun L hL => .inr ?_, h.angle_x, h.angle_y, h.angle_z⟩
    exact Option.some.inj hL ▸ own_transaction_captureStart identityCommands s

/-- While a transaction runs the host waits, and the captured list stays. -/
theorem hostInv_of_busy (hbusy : busy s = true) (hsession : t.session = s.session) (hn : t.seq.n = s.seq.n)
    (hcmds : t.seq.cmds = s.seq.cmds) (h : HostInv s) : HostInv t := by
  have hidle : s.seq.state ≠ .idle := fun hs => by simp [busy, hs] at hbusy
  refine ⟨?_, ?_, ?_, ?_, ?_⟩ <;> rw [hsession]
  · exact h.phase_state
  · intro L hL
    rw [hn, hcmds]
    exact .inr ((h.own_transaction L hL).resolve_left hidle)
  · exact h.angle_x
  · exact h.angle_y
  · exact h.angle_z

theorem hostInv_row (h : HostInv s) (hrow : Row s t) : HostInv t := by
  rcases row_cases hrow with ⟨-, hact⟩ | ⟨hbusy, hsession, hn, hcmds⟩
  · exact hostInv_hostAction h hact
  · exact hostInv_of_busy hbusy hsession hn hcmds h

/-- The requests pending do not matter to the invariant. -/
theorem hostInv_of_landed (hland : Landed s t) (h : HostInv s) : HostInv t := by
  obtain ⟨-, -, hseq, -, -, -, pending, hsession⟩ := hland
  refine ⟨?_, ?_, ?_, ?_, ?_⟩ <;> rw [hsession]
  · exact h.phase_state
  · rw [hseq]
    exact h.own_transaction
  · exact h.angle_x
  · exact h.angle_y
  · exact h.angle_z

end HostInv

/-- Settles O40: between two operations, with angles that are the conversion of 0. -/
theorem hostInvariantHoldsAtReset : Obligations.HostInvariantHoldsAtReset := by
  have hzero : isAngle 0 := ⟨0, by norm_num [degrees_eq]⟩
  exact hostInv_of_phase_idle rfl hzero hzero hzero

/-- Settles O41: a start lands only between two operations, a reset leaves IDLE, and the rows keep the invariant. -/
theorem everyStepKeepsTheHostInvariant : Obligations.EveryStepKeepsTheHostInvariant := by
  intro s t h hstep
  rcases step_cases hstep with ⟨L, rest, cs, -, hfree, -, -, -, rfl⟩ | ⟨rest, -, rfl⟩ | ⟨rest, -, rfl⟩ |
    ⟨u, hland, hrow⟩
  · exact hostInv_of_phase_idle (hostFree_iff.mp hfree) h.angle_x h.angle_y h.angle_z
  · exact ⟨h.phase_state, fun _ _ => .inl rfl, h.angle_x, h.angle_y, h.angle_z⟩
  · exact hostInv_of_phase_idle rfl h.angle_x h.angle_y h.angle_z
  · exact hostInv_row (hostInv_of_landed hland h) hrow

/-! ### The transitions of the session (R211, R224) -/

/-- An action that changes the session state makes a transition of the list, and none to Uninitialized. -/
theorem sessionMay_hostAction {s t : State} (h : HostInv s) (hact : HostAction s t)
    (hne : s.session.state ≠ t.session.state) :
    sessionMay s.session.state t.session.state = true ∧ t.session.state ≠ .uninitialized := by
  have hphase {p : HostPhase} (st : SessionState) (hp : s.session.phase = p) (hst : phaseState p = some st) :
      s.session.state = st := h.phase_state st (hp ▸ hst)
  cases hact with
  | stand | ended | startRefresh | refreshed | startIdentity | configured => exact absurd rfl hne
  | beginSetup =>
    refine ⟨?_, nofun⟩
    cases s.session.state <;> rfl
  | configureFailed hp =>
    rw [hphase .poweringUp hp rfl]
    exact ⟨rfl, nofun⟩
  | setMode hp =>
    rw [hphase .poweringUp hp rfl]
    exact ⟨rfl, nofun⟩
  | startSetup hp =>
    rw [hphase .configuringMode hp rfl]
    exact ⟨rfl, nofun⟩
  | setupOver hp st hst =>
    rw [hphase .awaitingReady hp rfl]
    rcases hst with rfl | rfl <;> exact ⟨rfl, nofun⟩

/-- Settles O42: starts and resets of the block leave the session alone, the host's own reset goes to
Uninitialized. -/
theorem sessionTransitionsAreTheListedOnes : Obligations.SessionTransitionsAreTheListedOnes := by
  intro s t h hstep hne
  rcases step_cases hstep with ⟨L, rest, cs, -, -, -, -, -, rfl⟩ | ⟨rest, -, rfl⟩ | ⟨rest, hi, rfl⟩ | ⟨u, hland, hrow⟩
  · exact absurd rfl hne
  · exact absurd rfl hne
  · refine ⟨?_, fun _ => ⟨rest, hi⟩⟩
    show sessionMay s.session.state .uninitialized = true
    cases s.session.state <;> rfl
  · have hu : HostInv u := hostInv_of_landed hland h
    obtain ⟨-, -, -, -, -, -, pending, hsession⟩ := hland
    have hstate : u.session.state = s.session.state := by rw [hsession]
    rw [← hstate] at hne ⊢
    rcases row_cases hrow with ⟨-, hact⟩ | ⟨-, hsame, -, -⟩
    · obtain ⟨hmay, hinit⟩ := sessionMay_hostAction hu hact hne
      exact ⟨hmay, fun hun => absurd hun hinit⟩
    · exact absurd (congrArg Session.state hsame.symm) hne

/-! ### What is written when (R14, R17, R18) -/

theorem angles_hostAction {s t : State} (hact : HostAction s t) :
    (t.session.angleX = s.session.angleX ∧ t.session.angleY = s.session.angleY ∧ t.session.angleZ = s.session.angleZ) ∨
    (s.session.phase = .awaitRefresh ∧ s.seq.state = .done ∧ s.res.ok = true) := by
  cases hact with
  | refreshed hp hs hok => exact .inr ⟨hp, hs, hok⟩
  | _ => exact .inl ⟨rfl, rfl, rfl⟩

/-- Settles O45: one action of the host writes them. -/
theorem anglesAreWrittenOnlyByASuccessfulRefresh : Obligations.AnglesAreWrittenOnlyByASuccessfulRefresh := by
  intro s t hstep
  rcases step_cases hstep with ⟨L, rest, cs, -, -, -, -, -, rfl⟩ | ⟨rest, -, rfl⟩ | ⟨rest, hi, rfl⟩ | ⟨u, hland, hrow⟩
  · exact .inl ⟨rfl, rfl, rfl⟩
  · exact .inl ⟨rfl, rfl, rfl⟩
  · exact .inl ⟨rfl, rfl, rfl⟩
  · obtain ⟨-, -, hseq, hres, -, -, pending, hsession⟩ := hland
    rcases row_cases hrow with ⟨-, hact⟩ | ⟨-, hsame, -, -⟩
    · have hangles := angles_hostAction hact
      rwa [hsession, hseq, hres] at hangles
    · rw [hsame, hsession]
      exact .inl ⟨rfl, rfl, rfl⟩

/-- The host writes CHIP_READY never, and `RES` by a start alone. -/
theorem hostStep_result (C : Config) (s : State) : (hostStep C s).chipReady = s.chipReady ∧
    ((hostStep C s).res = s.res ∨ ((hostStep C s).res.valid = false ∧ (hostStep C s).seq.state = .reset)) := by
  rcases hostStep_block C s with ⟨-, hready, -, hres, -, -⟩ | ⟨-, L, -, -, -, hready, hseq, hres, -, -⟩
  · exact ⟨hready, .inl hres⟩
  · exact ⟨hready, .inr ⟨by rw [hres]; rfl, by rw [hseq]; rfl⟩⟩

theorem chipReady_row {s t : State} (hrow : Row s t) : t.chipReady = s.chipReady ∨
    (s.seq.state = .check ∧ s.seq.k < s.seq.n ∧
      t.chipReady = rsReady (decodeFrame (responseWord s.seq s.seq.k))) := by
  cases hrow with
  | check hs hk hc => exact .inr ⟨hs, hk, rfl⟩
  | host hs => exact .inl (hostStep_result machineConfig s).1
  | wait hs => exact .inl (polled_waitRow _ s).chipReady
  | _ => exact .inl rfl

/-- Settles O43: one row writes CHIP_READY, and the reset. -/
theorem chipReadyIsWrittenOnlyFromFrames : Obligations.ChipReadyIsWrittenOnlyFromFrames := by
  intro s t hstep hne
  rcases step_cases hstep with ⟨L, rest, cs, -, -, -, -, -, rfl⟩ | ⟨rest, hi, rfl⟩ | ⟨rest, -, rfl⟩ | ⟨u, hland, hrow⟩
  · exact absurd rfl hne
  · exact .inr ⟨rest, hi⟩
  · exact absurd rfl hne
  · obtain ⟨-, hready, hseq, -, -, -, -⟩ := hland
    have hrow := chipReady_row hrow
    rw [hready, hseq] at hrow
    exact .inl (hrow.resolve_left hne)

/-- With the sequencer in IDLE or DONE the row is the host's turn. -/
theorem result_row {s t : State} (hfree : s.seq.state = .idle ∨ s.seq.state = .done) (hrow : Row s t) :
    t.res = s.res ∨ (t.res.valid = false ∧ t.seq.state = .reset) := by
  cases hrow with
  | host hs => exact (hostStep_result machineConfig s).2
  | send hs | flush hs | check hs | finish hs | reset hs | wait hs | read hs | sendEnd hs => simp [hs] at hfree
  | unlisted hs => rcases hs with hs | hs <;> simp [hs] at hfree

/-- Settles O44: a result is presented in IDLE and DONE alone, and there the host moves alone. -/
theorem resultLastsUntilTheNextStart : Obligations.ResultLastsUntilTheNextStart := by
  intro s t h hvalid hstep
  have hfree : busy s = false :=
    Bool.eq_false_iff.mpr fun hbusy => Bool.false_ne_true ((h.busy_result hbusy).symm.trans hvalid)
  rcases step_cases hstep with ⟨L, rest, cs, -, -, -, -, -, rfl⟩ | ⟨rest, hi, rfl⟩ | ⟨rest, -, rfl⟩ | ⟨u, hland, hrow⟩
  · exact .inr ⟨rfl, .inl rfl⟩
  · exact .inr ⟨rfl, .inr ⟨rest, hi⟩⟩
  · exact .inl rfl
  · obtain ⟨-, -, hseq, hres, -, -, -⟩ := hland
    have hrow := result_row (hseq ▸ busy_eq_false.mp hfree) hrow
    exact hrow.imp (·.trans hres) fun ⟨hgone, hreset⟩ => ⟨hgone, .inl hreset⟩

/-! ### The call of a row (R165) -/

theorem length_encode (T : CmdTab) (i : Instr) : (encode T i).length = 4 := rfl

/-- What a call says of the state it is made in, and of the state after it. -/
def CallOfRow (s t : State) : Call → Prop
  | .reset => s.seq.state = .reset
  | .write bs => bs.length = 4 ∧ (s.seq.state = .send ∨ s.seq.state = .flush ∨
      (busy s = false ∧ s.session.phase = .setMode))
  | .avail _ => s.seq.state = .wait
  | .read bs => s.seq.state = .read ∧ bs.length = 4 * (s.seq.n + 1)
  | .configure _ ok => busy s = false ∧ s.session.phase = .configure ∧
      t.session.phase = (if ok then .setMode else .idle)

theorem call_hostAction {s t : State} (hbusy : busy s = false) (hact : HostAction s t) :
    t.port.calls = s.port.calls ∨ ∃ c, t.port.calls = s.port.calls ++ [c] ∧ CallOfRow s t c := by
  cases hact with
  | setMode hp => exact .inr ⟨_, rfl, length_encode .., .inr (.inr ⟨hbusy, hp⟩)⟩
  | configured hp hok =>
    exact .inr ⟨.configure machineConfig.bus (tConfigure machineConfig.bus s).1, rfl, hbusy, hp, by rw [hok]; rfl⟩
  | configureFailed hp hok =>
    exact .inr ⟨.configure machineConfig.bus (tConfigure machineConfig.bus s).1, rfl, hbusy, hp, by rw [hok]; rfl⟩
  | _ => exact .inl rfl

theorem call_row {s t : State} (hrow : Row s t) :
    t.port.calls = s.port.calls ∨ ∃ c, t.port.calls = s.port.calls ++ [c] ∧ CallOfRow s t c := by
  cases hrow with
  | send hs => exact .inr ⟨_, rfl, length_encode .., .inl hs⟩
  | flush hs => exact .inr ⟨_, rfl, length_encode .., .inr (.inl hs)⟩
  | reset hs => exact .inr ⟨.reset, rfl, hs⟩
  | wait hs => exact .inr ⟨.avail (tAvail s).1, (polled_waitRow _ s).calls, hs⟩
  | read hs hr => exact .inr ⟨_, rfl, hs, List.length_take_of_le hr⟩
  | host hs => exact call_hostAction (busy_eq_false.mpr hs) (hostAction_hostStep hs)
  | check | finish | sendEnd | unlisted => exact .inl rfl

/-- Settles O46: starts and resets call nothing, and each row makes its call. -/
theorem eachStepMakesTheCallOfItsRow : Obligations.EachStepMakesTheCallOfItsRow := by
  intro s t hstep
  rcases step_cases hstep with ⟨L, rest, cs, -, -, -, -, -, rfl⟩ | ⟨rest, hi, rfl⟩ | ⟨rest, -, rfl⟩ | ⟨u, hland, hrow⟩
  · exact .inl rfl
  · exact .inl rfl
  · exact .inl rfl
  · obtain ⟨-, -, hseq, -, hport, -, pending, hsession⟩ := hland
    refine (call_row hrow).imp (·.trans (congrArg Port.calls hport)) ?_
    rintro ⟨c, hcalls, hc⟩
    refine ⟨c, hport ▸ hcalls, ?_⟩
    cases c <;> simpa only [CallOfRow, busy, hseq, hsession] using hc

/-! ### The host's transactions, begun and judged -/

/-- Settles O56: the list of setup is always accepted. -/
theorem setupStartsItsTransaction : Obligations.SetupStartsItsTransaction := by
  intro s hi hs hp
  have hturn : hostStep machineConfig s = setupStart machineConfig s := by simp only [hostStep, hp]
  rw [step_of_idle hi hs, hturn, setupStart_eq hs]
  rfl

/-- Settles O59: the two ends of a refresh, the status read as its mask. -/
theorem refreshWritesAnglesOnSuccessOnly : Obligations.RefreshWritesAnglesOnSuccessOnly := by
  intro C s hi hs hp d
  have hstep : stepIn C s = .next (refreshFinish C s) := by
    rw [stepIn_of_idle hi (.inr hs)]
    simp only [hostStep, hp, awaitDone, hs, if_true]
  rw [hstep, ← steadyCause_statusDecode, ← steadyState_statusDecode]
  constructor
  · intro hok
    simp only [refreshFinish, hok, if_true]
    rfl
  · intro hok
    simp only [refreshFinish, hok, Bool.false_eq_true, if_false]
    rfl

/-- Settles O60: the start of the identity check, and its end with the three tests. -/
theorem identityCheckIsTheConjunctionOfThreeTests : Obligations.IdentityCheckIsTheConjunctionOfThreeTests := by
  constructor
  · intro s rest hi hs hp hreq
    rw [step_of_idle hi hs, hostStep_of_pending hp hreq]
    exact congrArg _ (beginIdentity_eq hs)
  · intro s hi hs hp
    refine ⟨s.res.ok && s.chipReady && identityMatches (frameAt s.res 0), ?_, ?_⟩
    · rw [step_of_idle hi (.inr hs)]
      simp only [hostStep, hp, awaitDone, hs, if_true]
      rfl
    · rw [Bool.and_eq_true, Bool.and_eq_true, identityMatches_iff, and_assoc]

end Sys2Proof.Proofs
end

-- Whole transactions: the runs that succeed, that time out, and that go on waiting, under any configuration.
section
/-! PROOFS. A run is cut where the sequencer changes its state: up to WAIT it is one explicit state (`transmitted`), the
polls and the frames of CHECK are inductions of one step each (`PollRun`, `Checked`), and `run_add` joins the parts
(R161, R279). -/

namespace Sys2Proof.Proofs
open Sys2Proof Sys2Proof.Machine

/-! ### Runs -/

/-- A run goes on from the state that its first part ends in. -/
theorem run_add {M : Host.Core} {j : Nat} {s t : M.State} (h : M.run j s = .next t) (k : Nat) :
    M.run (j + k) s = M.run k t := by
  induction j generalizing s with
  | zero =>
    cases h
    rw [Nat.zero_add]
  | succ j ih =>
    cases hstep : M.step s with
    | next u =>
      rw [run_succ hstep] at h
      rw [Nat.add_right_comm, run_succ hstep, ih h]
    | fault r => simp [Host.Core.run, hstep] at h
    | refused r => simp [Host.Core.run, hstep] at h

section Run
variable {C : Config}

theorem run_one {s t : State} (h : stepIn C s = .next t) : (configured C).run 1 s = .next t :=
  run_succ (M := configured C) h 0

/-! ### From the start to WAIT (R151 to R154) -/

/-- The calls that transmit the commands of a list. -/
def writesOf (T : CmdTab) (L : List Instr) : List Call := L.map fun c => .write (encode T c)

theorem transmit_of_last {T : CmdTab} {c : Instr} {s : State} (h : s.seq.k + 1 = s.seq.n) :
    transmit T c s = { s with
      seq := { s.seq with k := s.seq.n, state := .flush }
      port := { s.port with calls := s.port.calls ++ [.write (encode T c)] } } := by
  simp only [transmit, tWrite_eq, record_seq, h, if_true]
  rfl

theorem transmit_of_not_last {T : CmdTab} {c : Instr} {s : State} (h : s.seq.k + 1 ≠ s.seq.n) :
    transmit T c s = { s with
      seq := { s.seq with k := s.seq.k + 1, state := .send }
      port := { s.port with calls := s.port.calls ++ [.write (encode T c)] } } := by
  simp only [transmit, tWrite_eq, record_seq, h, if_false]
  rfl

/-- In SEND, with L the commands left, the run of as many steps writes their words and ends in FLUSH. -/
theorem run_send {L tail : List Instr} {s : State} (hi : s.inputs = []) (hs : s.seq.state = .send)
    (hne : L ≠ []) (hlist : ∀ c ∈ L, c.listable = true) (hn : s.seq.k + L.length = s.seq.n)
    (hcmds : s.seq.cmds.drop s.seq.k = L ++ tail) :
    (configured C).run L.length s = .next { s with
      seq := { s.seq with k := s.seq.n, state := .flush }
      port := { s.port with calls := s.port.calls ++ writesOf C.cmdTab L } } := by
  induction L generalizing s with
  | nil => exact absurd rfl hne
  | cons c L ih =>
    have hk : s.seq.k < s.seq.n := by rw [← hn, List.length_cons]; omega
    have hc : cmdAt s.seq s.seq.k = c := by
      refine cmdAt_eq_of_getElem? ?_
      rw [← Nat.add_zero s.seq.k, ← List.getElem?_drop, hcmds]
      rfl
    have hstep : stepIn C s = .next (transmit C.cmdTab c s) :=
      hc ▸ stepIn_of_send hi hs hk (hc ▸ hlist c List.mem_cons_self)
    cases L with
    | nil =>
      rw [List.length_singleton, run_one hstep, transmit_of_last hn]
      rfl
    | cons d L =>
      have hmore : s.seq.k + 1 ≠ s.seq.n := by rw [← hn]; simp
      have hsend := transmit_of_not_last (T := C.cmdTab) (c := c) hmore
      have hrest := ih (s := transmit C.cmdTab c s) hi (by rw [hsend]) (List.cons_ne_nil d L)
        (fun e he => hlist e (List.mem_cons_of_mem c he))
        (by rw [hsend, ← hn]; simp only [List.length_cons]; omega)
        (by rw [hsend, ← List.drop_drop, hcmds]; rfl)
      rw [List.length_cons, run_succ (M := configured C) hstep, hrest, hsend]
      simp [writesOf]

/-- The state in WAIT once the commands of L and the flush are transmitted. -/
def transmitted (C : Config) (L : List Instr) (s : State) : State :=
  { s with
    seq := { s.seq with
      state := .wait, n := L.length, k := L.length, polls := 0, cmds := L ++ s.seq.cmds.drop L.length }
    res := { s.res with valid := false }
    port := {
      calls := s.port.calls ++ [.reset] ++ writesOf C.cmdTab L ++ [.write (encode C.cmdTab .readId)], received := [] }
    inputs := [] }

theorem transmitted_calls (C : Config) (L : List Instr) (s : State) :
    (transmitted C L s).port.calls = s.port.calls ++ [.reset] ++ transactionWrites C.cmdTab L :=
  List.append_assoc ..

theorem listWellFormed_iff {nMax : Nat} {L : List Instr} :
    listWellFormed nMax L = true ↔ L.length ≤ nMax ∧ ∀ c ∈ L, c.listable = true := by
  simp [listWellFormed]

theorem stepIn_of_accepted_start {L : List Instr} {s : State} (hi : s.inputs = [.start (L.map selectorOf)])
    (hp : s.session.phase = .idle) (hs : s.seq.state = .idle ∨ s.seq.state = .done)
    (hL : listWellFormed C.nMax L = true) : stepIn C s = .next (captureStart L (s.setInputs [])) := by
  obtain ⟨hlen, hlist⟩ := listWellFormed_iff.mp hL
  have hstart : presentStart C (L.map selectorOf) (s.setInputs []) = some (captureStart L (s.setInputs [])) :=
    presentStart_eq_some.mpr
      ⟨busy_eq_false.mpr hs, by rwa [List.length_map], L, commandsOfSelectors_map hlist, rfl⟩
  simp only [stepIn, landInput, hi, hostFree_iff.mpr hp, if_true, hstart]

/-- An accepted start runs to WAIT in `N + 3` steps: the start, RESET, SEND for each command, FLUSH. -/
theorem run_transmitted {L : List Instr} {s : State} (hi : s.inputs = [.start (L.map selectorOf)])
    (hp : s.session.phase = .idle) (hs : s.seq.state = .idle ∨ s.seq.state = .done)
    (hL : listWellFormed C.nMax L = true) :
    (configured C).run (1 + (1 + (L.length + 1))) s = .next (transmitted C L s) := by
  have hstart := run_one (stepIn_of_accepted_start hi hp hs hL)
  have hreset := run_one (C := C) (stepIn_of_reset (s := captureStart L (s.setInputs [])) rfl rfl)
  rw [run_add hstart, run_add hreset]
  cases L with
  | nil =>
    refine (run_one (stepIn_of_flush (s := resetRow (captureStart [] (s.setInputs []))) rfl rfl)).trans ?_
    simp only [transmitted, writesOf, List.map_nil, List.append_nil]
    rfl
  | cons c L =>
    have hsend := run_send (C := C) (L := c :: L) (s := resetRow (captureStart (c :: L) (s.setInputs []))) rfl rfl
      (List.cons_ne_nil c L) (listWellFormed_iff.mp hL).2 (Nat.zero_add _) rfl
    rw [run_add hsend]
    exact run_one (stepIn_of_flush rfl rfl)

/-! ### Polls (R155, R156, R279) -/

/-- What a run of failed polls with the given answers does. Bytes only move from the environment to the transport, as
long as no poll answers for more than there are. -/
structure PollRun (s t : State) (answers : List Nat) : Prop where
  seq : t.seq = { s.seq with polls := s.seq.polls + answers.length }
  res : t.res = s.res
  chipReady : t.chipReady = s.chipReady
  session : t.session = s.session
  inputs : t.inputs = s.inputs
  calls : t.port.calls = s.port.calls ++ answers.map .avail
  avail : t.env.avail = s.env.avail.drop answers.length
  bytes : (∀ a ∈ answers, a ≤ (s.port.received ++ s.env.incoming).length) →
    t.port.received ++ t.env.incoming = s.port.received ++ s.env.incoming

theorem pollRun_nil (s : State) : PollRun s s [] :=
  ⟨rfl, rfl, rfl, rfl, rfl, (List.append_nil _).symm, rfl, fun _ => rfl⟩

theorem pollRun_append {s t u : State} {as bs : List Nat} (h : PollRun s t as) (h' : PollRun t u bs) :
    PollRun s u (as ++ bs) where
  seq := by rw [h'.seq, h.seq, List.length_append, Nat.add_assoc]
  res := h'.res.trans h.res
  chipReady := h'.chipReady.trans h.chipReady
  session := h'.session.trans h.session
  inputs := h'.inputs.trans h.inputs
  calls := by rw [h'.calls, h.calls, List.map_append, List.append_assoc]
  avail := by rw [h'.avail, h.avail, List.drop_drop, List.length_append]
  bytes := fun hle => by
    have hs := h.bytes fun a ha => hle a (List.mem_append_left bs ha)
    rw [h'.bytes fun b hb => hs ▸ hle b (List.mem_append_right as hb), hs]

/-- The bytes a poll answers for come from those scripted, in order. -/
theorem bytes_tAvail {s : State} (h : (tAvail s).1 ≤ (s.port.received ++ s.env.incoming).length) :
    (tAvail s).2.port.received ++ (tAvail s).2.env.incoming = s.port.received ++ s.env.incoming := by
  have hincoming : (nextAvail s.env).2.incoming = s.env.incoming := by
    cases ha : s.env.avail <;> simp [nextAvail, ha]
  have hle : (nextAvail s.env).1 - s.port.received.length ≤ (nextAvail s.env).2.incoming.length := by
    rw [hincoming]
    rw [List.length_append] at h
    exact Nat.sub_le_iff_le_add'.mpr h
  simp only [tAvail, State.setEnv_port, State.setPort_port, State.setEnv_env, arrive_scripted _ _ hle, hincoming,
    List.append_assoc, List.take_append_drop]

theorem limitReached_mono {limit : Option Nat} {m n : Nat} (hmn : m ≤ n) (h : limitReached limit n = false) :
    limitReached limit m = false := by
  rw [← Bool.not_eq_true, limitReached_iff] at h ⊢
  exact fun ⟨p, hp, hle⟩ => h ⟨p, hp, hle.trans hmn⟩

/-- Polls that find too few bytes, below the limit, leave the sequencer in WAIT. -/
theorem exists_run_polls {answers more : List Nat} {s : State} (hi : s.inputs = []) (hs : s.seq.state = .wait)
    (havail : s.env.avail = answers ++ more) (hfew : ∀ a ∈ answers, a < frameBytes s.seq.n)
    (hlimit : limitReached C.pollLimit (s.seq.polls + answers.length) = false) :
    ∃ t : State, (configured C).run answers.length s = .next t ∧ PollRun s t answers := by
  induction answers generalizing s with
  | nil => exact ⟨s, rfl, pollRun_nil s⟩
  | cons a answers ih =>
    have ha : (tAvail s).1 = a := by rw [tAvail_fst, havail]; rfl
    have hrow : waitRow C.pollLimit s = (tAvail s).2.setSeq { s.seq with polls := s.seq.polls + 1 } := by
      rcases waitRow_cases C.pollLimit s with ⟨hbytes, -⟩ | ⟨-, -, e⟩ | ⟨-, hreached, -⟩
      · exact absurd (hfew a List.mem_cons_self) (ha ▸ hbytes).not_gt
      · exact e
      · rw [limitReached_mono (by simp only [List.length_cons]; omega) hlimit] at hreached
        cases hreached
    have hpoll : PollRun s (waitRow C.pollLimit s) [a] := by
      rw [hrow]
      refine ⟨rfl, rfl, rfl, rfl, rfl, ?_, ?_, fun hle => bytes_tAvail (ha ▸ hle a List.mem_cons_self)⟩
      · rw [State.setSeq_port, tAvail_calls, ha]
        rfl
      · rw [State.setSeq_env, tAvail_env_avail]
        exact List.drop_one.symm
    obtain ⟨t, ht, hrest⟩ := ih (s := waitRow C.pollLimit s) (hpoll.inputs.trans hi) (by rw [hrow]; exact hs)
      (by rw [hpoll.avail, havail]; rfl) (by rw [hrow]; exact fun b hb => hfew b (List.mem_cons_of_mem a hb))
      (by rw [hrow]; simpa [Nat.add_assoc, Nat.add_comm 1] using hlimit)
    exact ⟨t, (run_succ (M := configured C) (stepIn_of_wait hi hs) _).trans ht, pollRun_append hpoll hrest⟩

/-- A poll that finds the bytes leads to READ. -/
theorem waitRow_of_le {limit : Option Nat} {s : State} (h : frameBytes s.seq.n ≤ (tAvail s).1) :
    waitRow limit s = (tAvail s).2.setSeq { s.seq with state := .read } := by
  rcases waitRow_cases limit s with ⟨-, e⟩ | ⟨hfew, -⟩ | ⟨hfew, -⟩
  · exact e
  · exact absurd h hfew.not_ge
  · exact absurd h hfew.not_ge

/-- A failed poll that reaches the limit is the timeout. -/
theorem waitRow_of_limitReached {limit : Option Nat} {s : State} (hfew : (tAvail s).1 < frameBytes s.seq.n)
    (hlimit : limitReached limit (s.seq.polls + 1) = true) :
    waitRow limit s = timeOutTransaction ((tAvail s).2.setSeq { s.seq with polls := s.seq.polls + 1 }) := by
  rcases waitRow_cases limit s with ⟨hbytes, -⟩ | ⟨-, hno, -⟩ | ⟨-, -, e⟩
  · exact absurd hbytes hfew.not_ge
  · exact absurd (hno.symm.trans hlimit) Bool.false_ne_true
  · exact e

end Run

/-- Settles O49: no number of polls reaches a limit there is not. -/
theorem withoutALimitTheWaitGoesOn : Obligations.WithoutALimitTheWaitGoesOn := by
  intro C s polls more hC hi hs havail hfew
  obtain ⟨t, ht, hpoll⟩ := exists_run_polls (C := C) hi hs havail hfew (by rw [hC]; rfl)
  exact ⟨t, ht, hpoll.seq, hpoll.res, hpoll.chipReady, hpoll.calls⟩

/-- Settles O48: all polls but the last stay below the limit, and the last reaches it. -/
theorem timeoutRunPollsExactlyToTheLimit : Obligations.TimeoutRunPollsExactlyToTheLimit := by
  intro C p s L polls more hC hp hlen hi hphase hs hL havail hfew
  obtain ⟨first, last, rfl⟩ : ∃ first last, polls = first ++ [last] :=
    ⟨_, _, (List.dropLast_append_getLast (List.ne_nil_of_length_pos (hlen ▸ hp))).symm⟩
  rw [List.length_append, List.length_singleton] at hlen
  have hlast : last < frameBytes L.length := hfew last (List.mem_append_right first List.mem_cons_self)
  obtain ⟨t, ht, hpoll⟩ := exists_run_polls (C := C) (s := transmitted C L s) rfl rfl
    (havail.trans (List.append_assoc first [last] more)) (fun a ha => hfew a (List.mem_append_left [last] ha))
    (by rw [hC, limitReached, decide_eq_false]; simp only [transmitted]; omega)
  have ha : (tAvail t).1 = last := by
    rw [tAvail_fst, hpoll.avail, transmitted, havail, List.append_assoc, List.drop_left]
    rfl
  have htimeout : stepIn C t = .next (waitRow C.pollLimit t) :=
    stepIn_of_wait hpoll.inputs (by rw [hpoll.seq]; rfl)
  rw [waitRow_of_limitReached (by rw [ha, hpoll.seq]; exact hlast)
    (by rw [hC, hpoll.seq, limitReached, decide_eq_true]; simp only [transmitted]; omega)] at htimeout
  have hcount : L.length + p + 3 = (1 + (1 + (L.length + 1))) + (first.length + 1) := by omega
  refine ⟨timeOutTransaction ((tAvail t).2.setSeq { t.seq with polls := t.seq.polls + 1 }), ?_, rfl, ?_,
    hpoll.chipReady, ?_, hpoll.session⟩
  · rw [hcount, run_add (run_transmitted hi hphase hs hL), run_add ht]
    exact run_one htimeout
  · show { t.res with valid := true, ok := false, timeout := true, n := 0 } = _
    rw [hpoll.res]
    rfl
  · show (tAvail t).2.port.calls = _
    rw [tAvail_calls, hpoll.calls, transmitted_calls, ha, List.map_append, ← List.append_assoc]
    rfl

/-! ### CHECK (R158, R159) -/

/-- After k frames of the transaction that read bs: they are decoded, paired and judged as the sequential program does,
and s is as the state u that began CHECK but for the block's result. -/
structure Checked (C : Config) (L : List Instr) (bs : List Byte) (u s : State) (k : Nat) : Prop where
  state : s.seq.state = .check
  index : s.seq.k = k
  length : s.seq.n = L.length
  cmds : s.seq.cmds = L ++ u.seq.cmds.drop L.length
  rx : s.seq.rx = bs
  no_timeout : s.res.timeout = false
  count : s.res.n = k
  ok : s.res.ok = transactionOk C.cmdTab (L.take k) bs
  frames : ∀ i < k, frameAt s.res i = frameFrom bs i ∧ L[i]? = some (reqAt s.res i)
  ready : s.chipReady = transactionReady u.chipReady k bs
  port : s.port = u.port
  session : s.session = u.session
  inputs : s.inputs = u.inputs

section Checks
variable {C : Config} {L : List Instr} {bs : List Byte} {u s : State} {k : Nat}

/-- The response frame of a buffer that holds the whole transaction. -/
theorem decodeFrame_responseWord (hlen : bs.length = frameBytes L.length) (hk : k < L.length) {q : Sequencer}
    (hrx : q.rx = bs) : decodeFrame (responseWord q k) = frameFrom bs k := by
  have hbyte : ∀ j < 4 * (L.length + 1), rxAt q j = bs.getD j 0 := by
    intro j hj
    have hj' : j < bs.length := hlen ▸ hj
    rw [rxAt, readEntry, hrx, List.getD_eq_getElem _ _ hj', List.getD_eq_getElem _ _ hj']
  rw [responseWord, frameFrom, hbyte _ (by omega), hbyte _ (by omega), hbyte _ (by omega), hbyte _ (by omega)]

/-- One more command judged. -/
theorem transactionOk_take_succ (T : CmdTab) (bs : List Byte) (hk : k < L.length) :
    transactionOk T (L.take (k + 1)) bs =
      (transactionOk T (L.take k) bs && verdict T (frameFrom bs k) L[k] == .valid) := by
  have htake : L.take (k + 1) = L.take k ++ [L[k]] := by rw [List.take_append_getElem]
  have hlen : (L.take k).length = k := List.length_take_of_le hk.le
  rw [transactionOk, htake, List.zipIdx_append, List.all_append, hlen]
  simp [transactionOk]

theorem cmdAt_of_append {tail : List Instr} {q : Sequencer} (hcmds : q.cmds = L ++ tail) (hk : k < L.length) :
    cmdAt q k = L[k] :=
  cmdAt_eq_of_getElem? (by rw [hcmds, List.getElem?_append_left hk, List.getElem?_eq_getElem hk])

/-- One frame: the row decodes it, pairs it with its command and judges it. -/
theorem checked_checkResponse (hlen : bs.length = frameBytes L.length) (hk : k < L.length)
    (h : Checked C L bs u s k) : Checked C L bs u (checkResponse C.cmdTab L[k] s) (k + 1) := by
  have hframe : decodeFrame (responseWord s.seq s.seq.k) = frameFrom bs k := by
    rw [h.index]
    exact decodeFrame_responseWord hlen hk h.rx
  refine ⟨h.state, congrArg (· + 1) h.index, h.length, h.cmds, h.rx, ?_, ?_, ?_, ?_, ?_, h.port, h.session, h.inputs⟩
  · rw [checkResponse_res]
    exact h.no_timeout
  · rw [checkResponse_res]
    exact congrArg (· + 1) h.index
  · rw [checkResponse_res, hframe, h.ok, transactionOk_take_succ _ _ hk]
    rfl
  · rw [Nat.forall_lt_succ_right]
    constructor
    · intro i hi
      have hne : i ≠ s.seq.k := h.index ▸ hi.ne
      rw [frameAt_checkResponse_ne _ _ _ hne, reqAt_checkResponse_ne _ _ _ hne]
      exact h.frames i hi
    · have hsame := frameAt_checkResponse_same C.cmdTab L[k] s
      have hreq := reqAt_checkResponse_same C.cmdTab L[k] s
      rw [h.index] at hsame hreq
      rw [hsame, hreq, List.getElem?_eq_getElem hk]
      exact ⟨h.index ▸ hframe, rfl⟩
  · rw [checkResponse_chipReady, hframe, transactionReady, if_neg (Nat.succ_ne_zero k), Nat.add_sub_cancel]

/-- The run of one step per frame judges all of them. -/
theorem exists_run_checks (hlen : bs.length = frameBytes L.length) (hlist : ∀ c ∈ L, c.listable = true)
    (hu : u.inputs = []) {d : Nat} (hd : k + d = L.length) (h : Checked C L bs u s k) :
    ∃ t : State, (configured C).run d s = .next t ∧ Checked C L bs u t L.length := by
  induction d generalizing s k with
  | zero => exact ⟨s, rfl, (hd : k = L.length) ▸ h⟩
  | succ d ih =>
    have hk : k < L.length := by omega
    have hcmd : cmdAt s.seq s.seq.k = L[k] := by
      rw [h.index]
      exact cmdAt_of_append h.cmds hk
    have hstep : stepIn C s = .next (checkResponse C.cmdTab L[k] s) :=
      hcmd ▸ stepIn_of_check (h.inputs.trans hu) h.state (by rw [h.index, h.length]; exact hk)
        (hcmd ▸ hlist _ (List.getElem_mem hk))
    obtain ⟨t, ht, hall⟩ := ih (by omega) (checked_checkResponse hlen hk h)
    exact ⟨t, (run_succ (M := configured C) hstep d).trans ht, hall⟩

end Checks

/-! ### The whole transaction (R150, R161) -/

/-- The polls of a transaction, the last of which finds the bytes, lead to READ with those bytes at the front. -/
theorem exists_run_to_read {C : Config} {L : List Instr} {polls more : List Nat} {a : Nat} {bs extra : List Byte}
    {s : State} (havail : s.env.avail = polls ++ a :: more) (hfew : ∀ p ∈ polls, p < frameBytes L.length)
    (ha : frameBytes L.length ≤ a) (hlimit : limitReached C.pollLimit polls.length = false)
    (hincoming : s.env.incoming = bs ++ extra) (hlen : bs.length = frameBytes L.length)
    (hle : a ≤ s.env.incoming.length) :
    ∃ (t : State) (rest : List Byte), (configured C).run (polls.length + 1) (transmitted C L s) = .next t ∧
      t.seq = { (transmitted C L s).seq with polls := polls.length, state := .read } ∧
      t.chipReady = s.chipReady ∧ t.session = s.session ∧ t.inputs = [] ∧
      t.port.received = bs ++ rest ∧
      t.port.calls = (transmitted C L s).port.calls ++ (polls ++ [a]).map .avail := by
  obtain ⟨u, hu, hpoll⟩ := exists_run_polls (C := C) (s := transmitted C L s) rfl rfl havail hfew
    (by rw [← hlimit]; exact congrArg _ (Nat.zero_add _))
  have hanswer : (tAvail u).1 = a := by
    rw [tAvail_fst, hpoll.avail, transmitted, havail, List.drop_left]
    rfl
  have hscripted : u.port.received ++ u.env.incoming = bs ++ extra :=
    (hpoll.bytes fun p hp => ((hfew p hp).le.trans ha).trans hle).trans hincoming
  have hbytes : (tAvail u).2.port.received ++ (tAvail u).2.env.incoming = bs ++ extra := by
    refine (bytes_tAvail ?_).trans hscripted
    rw [hanswer, hscripted, ← hincoming]
    exact hle
  have hfront : bs <+: (tAvail u).2.port.received :=
    List.prefix_of_prefix_length_le ⟨extra, rfl⟩ ⟨_, hbytes⟩
      (hlen.trans_le (ha.trans (hanswer ▸ le_length_tAvail u)))
  obtain ⟨rest, hrest⟩ := hfront
  have hread : stepIn C u = .next ((tAvail u).2.setSeq { u.seq with state := .read }) := by
    rw [stepIn_of_wait hpoll.inputs (by rw [hpoll.seq]; rfl), waitRow_of_le]
    rw [hanswer, hpoll.seq]
    exact ha
  refine ⟨_, rest, (run_add hu 1).trans (run_one hread), ?_, hpoll.chipReady, hpoll.session, hpoll.inputs,
    hrest.symm, ?_⟩
  · rw [State.setSeq_seq, hpoll.seq]
    simp [transmitted]
  · rw [State.setSeq_port, tAvail_calls, hpoll.calls, hanswer, List.map_append, List.append_assoc]
    rfl

/-- The READ row of such a state begins CHECK with no frame judged. -/
theorem exists_stepIn_read {C : Config} {L : List Instr} {bs rest : List Byte} {s : State} (hi : s.inputs = [])
    (hs : s.seq.state = .read) (hn : s.seq.n = L.length) (hcmds : s.seq.cmds.take L.length = L)
    (hreceived : s.port.received = bs ++ rest) (hlen : bs.length = frameBytes L.length) :
    ∃ t : State, stepIn C s = .next t ∧ Checked C L bs t t 0 ∧ t.chipReady = s.chipReady ∧ t.session = s.session ∧
      t.inputs = [] ∧ t.port.calls = s.port.calls ++ [.read bs] := by
  refine ⟨_, (stepIn_of_read hi hs).trans (readRow_of_append hreceived (hn ▸ hlen)), ?_, rfl, rfl, hi, rfl⟩
  refine ⟨rfl, rfl, hn, ?_, rfl, rfl, rfl, rfl, nofun, rfl, rfl, rfl, rfl⟩
  conv_lhs => rw [← List.take_append_drop L.length s.seq.cmds, hcmds]

/-- Settles O47: up to WAIT, the polls, READ, one step per frame, and the last CHECK row. -/
theorem transactionRunsTheSequentialProgram : Obligations.TransactionRunsTheSequentialProgram := by
  intro C s L polls a more bs extra hi hphase hs hL havail hfew ha hlimit hincoming hlen hle
  obtain ⟨t, rest, hpolls, hseq, hready, hsession, hinputs, hreceived, hcalls⟩ :=
    exists_run_to_read (C := C) (L := L) havail hfew ha hlimit hincoming hlen hle
  obtain ⟨u, hread, hzero, hready', hsession', hinputs', hcalls'⟩ :=
    exists_stepIn_read (C := C) hinputs (by rw [hseq]) (by rw [hseq]; rfl) (by rw [hseq]; exact List.take_left)
      hreceived hlen
  obtain ⟨v, hchecks, hall⟩ := exists_run_checks hlen (listWellFormed_iff.mp hL).2 hinputs' (Nat.zero_add _) hzero
  have hfinish : stepIn C v = .next (finishRow v) :=
    stepIn_of_finish (hall.inputs.trans hinputs') hall.state (hall.length.trans hall.index.symm).le
  have hcount : 2 * L.length + polls.length + 6 =
      (1 + (1 + (L.length + 1))) + ((polls.length + 1) + (1 + (L.length + 1))) := by omega
  refine ⟨finishRow v, ?_, rfl, rfl, hall.no_timeout, hall.count, ?_, hall.frames, ?_, ?_, ?_,
    hall.inputs.trans hinputs'⟩
  · rw [hcount, run_add (run_transmitted hi hphase hs hL), run_add hpolls, run_add (run_one hread), run_add hchecks]
    exact run_one hfinish
  · exact hall.ok.trans (by rw [List.take_length])
  · exact hall.ready.trans (by rw [hready', hready])
  · show v.port.calls = _
    rw [hall.port, hcalls', hcalls, transmitted_calls]
    simp only [transactionCalls, List.append_assoc]
  · exact hall.session.trans (hsession'.trans hsession)

end Sys2Proof.Proofs
end
